-- ==== Sys2Proof/Word.lean ====
section
/-! DEFINITION. The word types of the block (spec/00_scope.md R12). -/

namespace Sys2Proof

/-- A 64-bit word: every A, R, CMD, STATUS and walker slot (00_scope R12, 10_state R22). -/
abbrev Word := BitVec 64

/-- One byte of memory (20_memory R60). -/
abbrev Byte := BitVec 8

/-- A 16-bit output element (00_scope R12, 20_memory R73). -/
abbrev Half := BitVec 16

end Sys2Proof
end

