-- ==== Sys2Proof/Machine/Bits.lean ====
section
/-! DEFINITION. The bit-field and byte-order helpers every rule uses (00_scope R11, 20_memory R61). -/

namespace Sys2Proof.Machine

/-- `fld(v, lo, w)` = (v >> lo) mod 2^w, the masked shift (00_scope R11, 41_bitfield R152). -/
def fld (v lo w : Nat) : Nat := (v >>> lo) % 2 ^ w

/-- The value of bytes in address order, little-endian (20_memory R61). -/
def bytesValue : List Byte → Nat
  | [] => 0
  | b :: rest => b.toNat + 256 * bytesValue rest

/-- `sext_64` of a register: its two's-complement value (00_scope R10, R11; used by SCAN's A1 only). -/
def sext64 (v : Word) : Int := v.toInt

/-- A value reduced mod 2^64 into a register (00_scope R11). -/
def toWord (n : Nat) : Word := BitVec.ofNat 64 n

/-- An integer reduced mod 2^64, two's complement (46_container R250, R5 of SCAN). -/
def intWord (n : Int) : Word := BitVec.ofInt 64 n

/-- A truth value as the number 0 or 1 in a result field. -/
def bit (b : Bool) : Nat := if b then 1 else 0

end Sys2Proof.Machine
end

