-- ==== Sys2Proof/Syntax.lean ====
section
/-! DEFINITION. The commands of the block: one constructor per row of spec/opcode_table.json (30_encoding R105). -/

namespace Sys2Proof

/-- A command. Only the bit-field commands carry immediates: `off` is OFF and `wid` is WID of 30_encoding R103, naturals
because R104 zero-extends both and no rule wraps them. -/
inductive Instr where
  /-- NOP, 40_control R135. -/
  | nop
  /-- BFX32, 41_bitfield R150. -/
  | bfx32 (off wid : Nat)
  /-- BFX64, 41_bitfield R151. -/
  | bfx64 (off wid : Nat)
  /-- HDR, 42_header R160. -/
  | hdr
  /-- EXP64, 43_unpack R173. -/
  | exp64
  /-- EXP128, 43_unpack R174. -/
  | exp128
  /-- EXP128N, 43_unpack R175. -/
  | exp128n
  /-- TRC1, 44_transpose R194. -/
  | trc1
  /-- TRC8, 44_transpose R195. -/
  | trc8
  /-- TRC16, 44_transpose R196. -/
  | trc16
  /-- TRC32, 44_transpose R197. -/
  | trc32
  /-- TRCN, 44_transpose R198. -/
  | trcn
  /-- TRP1, 44_transpose R199. -/
  | trp1
  /-- TRP8, 44_transpose R200. -/
  | trp8
  /-- TRP16, 44_transpose R201. -/
  | trp16
  /-- TRP32, 44_transpose R202. -/
  | trp32
  /-- TRPN, 44_transpose R203. -/
  | trpn
  /-- WINIT, 45_walker R222. -/
  | winit
  /-- WNEXT, 45_walker R223. -/
  | wnext
  /-- WGET, 45_walker R224. -/
  | wget
  /-- SCAN, 46_container R250. -/
  | scan
  /-- TOCDSC, 46_container R253. -/
  | tocdsc
  /-- TOCLEN, 46_container R254. -/
  | toclen
deriving DecidableEq, Repr

end Sys2Proof
end

