-- ==== Sys2Proof/WellFormed.lean ====
section
/-! DEFINITION. Which instruction terms stand for a command word (30_encoding R103: OFF is 0..63, WID is 0..127). -/

namespace Sys2Proof

/-- The immediates of the bit-field commands fit their fields: OFF in 6 bits, WID in 7 (30_encoding R103). Whether OFF + WID
fits the word is no matter of encoding: such a word is legal and its command faults E_FIELD (41_bitfield R150, R151). -/
def Instr.wellFormed : Instr → Bool
  | .bfx32 off wid => decide (off < 64) && decide (wid < 128)
  | .bfx64 off wid => decide (off < 64) && decide (wid < 128)
  | .nop => true
  | .hdr => true
  | .exp64 => true
  | .exp128 => true
  | .exp128n => true
  | .trc1 => true
  | .trc8 => true
  | .trc16 => true
  | .trc32 => true
  | .trcn => true
  | .trp1 => true
  | .trp8 => true
  | .trp16 => true
  | .trp32 => true
  | .trpn => true
  | .winit => true
  | .wnext => true
  | .wget => true
  | .scan => true
  | .tocdsc => true
  | .toclen => true

end Sys2Proof
end

