-- ==== Sys2Proof/Decode.lean ====
section
/-! DEFINITION. Decoding of the 64-bit CMD value, total and rejecting by name, the encoder, and the opcode table as rows
(30_encoding R100..R107). -/

namespace Sys2Proof

open Sys2Proof.Machine (fld)

/-- Why a CMD value is no legal command; each is E_ILLEGAL (30_encoding R100, R106, R107, 60_exceptions R280). -/
inductive DecodeError where
  /-- CMD[63:32] is not 0 (R100). -/
  | highBits
  /-- The opcode is not in the map of R105 (R107). -/
  | reservedOpcode
  /-- A reserved immediate bit is not 0: CMD[31:8] of F0 (R102), CMD[31:21] of FB (R103). -/
  | reservedBits
deriving DecidableEq, Repr

/-- Format F0: IMM must be 0 (30_encoding R102). -/
def decodeF0 (v : Nat) (i : Instr) : Except DecodeError Instr :=
  if fld v 8 24 = 0 then .ok i else .error .reservedBits

/-- OFF of format FB, CMD[13:8] (30_encoding R103, R104). -/
def fieldOff (v : Nat) : Nat := fld v 8 6

/-- WID of format FB, CMD[20:14] (30_encoding R103, R104). -/
def fieldWid (v : Nat) : Nat := fld v 14 7

/-- Format FB: CMD[31:21] must be 0 (30_encoding R103). -/
def decodeFB (v : Nat) (i : Instr) : Except DecodeError Instr :=
  if fld v 21 11 = 0 then .ok i else .error .reservedBits

/-- The command a CMD value stands for (30_encoding R105, R106). -/
def decodeNat (v : Nat) : Except DecodeError Instr :=
  if fld v 32 32 ≠ 0 then .error .highBits
  else match fld v 0 8 with
    | 0x00 => decodeF0 v .nop
    | 0x10 => decodeFB v (.bfx32 (fieldOff v) (fieldWid v))
    | 0x11 => decodeFB v (.bfx64 (fieldOff v) (fieldWid v))
    | 0x18 => decodeF0 v .hdr
    | 0x20 => decodeF0 v .exp64
    | 0x21 => decodeF0 v .exp128
    | 0x22 => decodeF0 v .exp128n
    | 0x30 => decodeF0 v .trc1
    | 0x31 => decodeF0 v .trc8
    | 0x32 => decodeF0 v .trc16
    | 0x33 => decodeF0 v .trc32
    | 0x34 => decodeF0 v .trcn
    | 0x38 => decodeF0 v .trp1
    | 0x39 => decodeF0 v .trp8
    | 0x3A => decodeF0 v .trp16
    | 0x3B => decodeF0 v .trp32
    | 0x3C => decodeF0 v .trpn
    | 0x40 => decodeF0 v .winit
    | 0x41 => decodeF0 v .wnext
    | 0x42 => decodeF0 v .wget
    | 0x48 => decodeF0 v .scan
    | 0x50 => decodeF0 v .tocdsc
    | 0x51 => decodeF0 v .toclen
    | _ => .error .reservedOpcode

/-- Decoding of the CMD register (30_encoding R106): total on every 64-bit value. -/
def decode (v : Word) : Except DecodeError Instr := decodeNat v.toNat

/-- A bit-field command word: OPC | OFF << 8 | WID << 14 (30_encoding R103). -/
def encodeFB (opc off wid : Nat) : Word := BitVec.ofNat 64 (opc + off * 2 ^ 8 + wid * 2 ^ 14)

/-- The CMD value of a well-formed command (30_encoding R105). -/
def encode : Instr → Word
  | .nop => 0x00
  | .bfx32 off wid => encodeFB 0x10 off wid
  | .bfx64 off wid => encodeFB 0x11 off wid
  | .hdr => 0x18
  | .exp64 => 0x20
  | .exp128 => 0x21
  | .exp128n => 0x22
  | .trc1 => 0x30
  | .trc8 => 0x31
  | .trc16 => 0x32
  | .trc32 => 0x33
  | .trcn => 0x34
  | .trp1 => 0x38
  | .trp8 => 0x39
  | .trp16 => 0x3A
  | .trp32 => 0x3B
  | .trpn => 0x3C
  | .winit => 0x40
  | .wnext => 0x41
  | .wget => 0x42
  | .scan => 0x48
  | .tocdsc => 0x50
  | .toclen => 0x51

/-- The decoder's answer for a word of `nbits` bits numbered as spec/opcode_table.json numbers them: bit 0 of the table is bit 0 of
CMD, and every CMD bit above `nbits` is 0. -/
def decodeTableWord (nbits w : Nat) : Option Instr :=
  (decode (BitVec.ofNat 64 (w % 2 ^ nbits))).toOption

/-- One row of spec/opcode_table.json: a CMD value matches it iff `value && mask = pattern` (30_encoding R106). -/
structure OpcodeRow where
  mnemonic : String
  mask : Word
  pattern : Word
deriving DecidableEq, Repr

/-- A row of format F0: every bit of CMD is fixed. -/
def rowF0 (mnemonic : String) (pattern : Word) : OpcodeRow := ⟨mnemonic, 0xFFFFFFFFFFFFFFFF, pattern⟩

/-- A row of format FB: OFF and WID are free. -/
def rowFB (mnemonic : String) (pattern : Word) : OpcodeRow := ⟨mnemonic, 0xFFFFFFFFFFE000FF, pattern⟩

/-- The opcode table, row by row as spec/opcode_table.json gives it. -/
def opcodeTable : List OpcodeRow :=
  [rowF0 "NOP" 0x00, rowFB "BFX32" 0x10, rowFB "BFX64" 0x11, rowF0 "HDR" 0x18,
   rowF0 "EXP64" 0x20, rowF0 "EXP128" 0x21, rowF0 "EXP128N" 0x22,
   rowF0 "TRC1" 0x30, rowF0 "TRC8" 0x31, rowF0 "TRC16" 0x32, rowF0 "TRC32" 0x33, rowF0 "TRCN" 0x34,
   rowF0 "TRP1" 0x38, rowF0 "TRP8" 0x39, rowF0 "TRP16" 0x3A, rowF0 "TRP32" 0x3B, rowF0 "TRPN" 0x3C,
   rowF0 "WINIT" 0x40, rowF0 "WNEXT" 0x41, rowF0 "WGET" 0x42, rowF0 "SCAN" 0x48,
   rowF0 "TOCDSC" 0x50, rowF0 "TOCLEN" 0x51]

/-- A CMD value matches a row of the table (30_encoding R106). -/
def OpcodeRow.holds (r : OpcodeRow) (v : Word) : Bool := (v &&& r.mask) == r.pattern

/-- OPC of an instruction (30_encoding R105). -/
def Instr.opcode : Instr → Nat
  | .nop => 0x00
  | .bfx32 _ _ => 0x10
  | .bfx64 _ _ => 0x11
  | .hdr => 0x18
  | .exp64 => 0x20
  | .exp128 => 0x21
  | .exp128n => 0x22
  | .trc1 => 0x30
  | .trc8 => 0x31
  | .trc16 => 0x32
  | .trc32 => 0x33
  | .trcn => 0x34
  | .trp1 => 0x38
  | .trp8 => 0x39
  | .trp16 => 0x3A
  | .trp32 => 0x3B
  | .trpn => 0x3C
  | .winit => 0x40
  | .wnext => 0x41
  | .wget => 0x42
  | .scan => 0x48
  | .tocdsc => 0x50
  | .toclen => 0x51

/-- The mnemonic of an instruction's row (30_encoding R105). -/
def Instr.mnemonic : Instr → String
  | .nop => "NOP"
  | .bfx32 _ _ => "BFX32"
  | .bfx64 _ _ => "BFX64"
  | .hdr => "HDR"
  | .exp64 => "EXP64"
  | .exp128 => "EXP128"
  | .exp128n => "EXP128N"
  | .trc1 => "TRC1"
  | .trc8 => "TRC8"
  | .trc16 => "TRC16"
  | .trc32 => "TRC32"
  | .trcn => "TRCN"
  | .trp1 => "TRP1"
  | .trp8 => "TRP8"
  | .trp16 => "TRP16"
  | .trp32 => "TRP32"
  | .trpn => "TRPN"
  | .winit => "WINIT"
  | .wnext => "WNEXT"
  | .wget => "WGET"
  | .scan => "SCAN"
  | .tocdsc => "TOCDSC"
  | .toclen => "TOCLEN"

end Sys2Proof
end

