-- ==== Sys2Proof/Config.lean ====
section
/-! DEFINITION. What the spec leaves to the platform or to chance: the open parameters of 00_scope R8 as plain data, and the free
values as opaque constants. -/

namespace Sys2Proof

/-- The kind of an engine access (00_scope R8, MEM_OK). -/
inductive AccessKind where
  | read
  | write
deriving DecidableEq, Repr, Inhabited

/-- One range of addresses in which engine accesses are allowed (a row of the platform's MEM_OK; log 2). -/
structure Window where
  base : Nat
  size : Nat
  canRead : Bool
  canWrite : Bool
deriving DecidableEq, Repr, Inhabited

/-- The place of a field in a header word: HLEN_LO[f] and HLEN_W[f] with the constraint of 42_header R161. The default values
are only there so that the type has a value. -/
structure FieldPos where
  lo : Nat := 0
  width : Nat := 1
  widthPos : 1 ≤ width := by decide
  fits : lo + width ≤ 64 := by decide
deriving DecidableEq, Repr, Inhabited

/-- Which record SCAN keeps when a kind occurs twice (00_scope R8 SCAN_DUP, 92 D31; log 16). -/
inductive DupPolicy where
  | last
  | first
deriving DecidableEq, Repr, Inhabited

/-- The open parameters of 00_scope R8, with the constraints the spec states on them. The default of a field is the spec's
"vector default", which R8 calls a placeholder and not a value of the real format: no statement rests on one. -/
structure Params where
  /-- BLK_BASE, 10_state R34. -/
  blkBase : Word := 0
  /-- The 256-byte window lies in the address space (10_state R34; log 15). -/
  blkFits : blkBase.toNat + 256 ≤ 2 ^ 64 := by decide
  /-- MEM_OK as data: the ranges in which accesses are allowed, less the triples of `denied` (log 2). -/
  windows : List Window := []
  /-- Accesses (address, length, kind) that MEM_OK refuses although a window holds them (log 2). -/
  denied : List (Nat × Nat × AccessKind) := []
  /-- HLEN_LO[0], HLEN_W[0]. -/
  hlen0 : FieldPos := { lo := 8, width := 24 }
  /-- HLEN_LO[1], HLEN_W[1]. -/
  hlen1 : FieldPos := { lo := 32, width := 32 }
  /-- HLEN_LO[2], HLEN_W[2]. -/
  hlen2 : FieldPos := { lo := 8, width := 32 }
  /-- HLEN_LO[3], HLEN_W[3]. -/
  hlen3 : FieldPos := { lo := 40, width := 24 }
  tToc : BitVec 4 := 1
  tRanges : BitVec 4 := 2
  tPacket : BitVec 4 := 3
  recordTypesDistinct : tToc ≠ tRanges ∧ tToc ≠ tPacket ∧ tRanges ≠ tPacket := by decide
  scanDup : DupPolicy := .last
  /-- PH_SIZE, 1..8. -/
  phSize : Nat := 4
  phSizeRange : 1 ≤ phSize ∧ phSize ≤ 8 := by decide
  phTypeLo : Nat := 28
  phTypeW : Nat := 4
  /-- The type field lies in a 64-bit word (41_bitfield R152, 92 D38; log 15). -/
  phTypeFits : phTypeLo + phTypeW ≤ 64 := by decide
  phTsLo : Nat := 0
  /-- The 28-bit short timestamp lies in a 64-bit word (41_bitfield R152, 92 D38; log 15). -/
  phTsFits : phTsLo + 28 ≤ 64 := by decide
  tcCounter : Nat := 1
  tcTrigger : Nat := 2
  tcTimestamp : Nat := 3
  tcWarning : Nat := 4
  tcChecksum : Nat := 5
  typeCodesDistinct : [tcCounter, tcTrigger, tcTimestamp, tcWarning, tcChecksum].Nodup := by decide
  szCounter : Nat := 12
  szTrigger : Nat := 4
  szTimestamp : Nat := 8
  szWarning : Nat := 4
  szChecksum : Nat := 4
deriving DecidableEq, Repr, Inhabited

/-- The parameters of the machine that comes out of reset: any (00_scope R9; log 1). -/
opaque Config.params : Params

/-- LATENCY (00_scope R8): the delay, in host turns, of the command accepted when so many values have been drawn (log 5). -/
opaque Config.latency : Nat → Nat

/-- A free 64-bit value for each draw: result registers after a fault (60_exceptions R281), results of a raced command
(20_memory R82), reads of unsettled registers (10_state R37). Log 6. -/
opaque Config.freeWord : Nat → Word

/-- A free byte for each draw and address: the bytes of a raced or abandoned write set (20_memory R82, 70_reset R311). Log 6. -/
opaque Config.freeByte : Nat → Nat → Byte

/-- A free choice for each draw, taken modulo the number of alternatives: the old or the new byte of a load (20_memory R81), the
state a raced WNEXT leaves (log 8). Log 6. -/
opaque Config.freeChoice : Nat → Nat

end Sys2Proof
end

