-- ==== Sys2Proof/Machine/State.lean ====
section
/-! DEFINITION. The state of the block as plain data (10_state R20), the reasons a step can stop, and the state after reset
(70_reset R310). Types only: every operation stands in Machine/Ops.lean and the files after it. -/

namespace Sys2Proof.Machine

/-- Memory as (address, byte) pairs in one canonical form (log 3): addresses strictly rising below 2^64, no entry equal to what an
unlisted address reads as (`Memory.wf`, Machine/Ops.lean). -/
abbrev Memory := List Host.Cell

/-- A byte range [base, base + len). -/
structure Span where
  base : Nat
  len : Nat
deriving DecidableEq, Repr

/-- The walker states of 10_state R32; the values 6 and 7 are never held. -/
inductive WState where
  /-- 0: no WINIT since reset. -/
  | none
  /-- 1: after WINIT, no payload returned yet. -/
  | atHeader
  /-- 2: payload WID - 1 was the last returned. -/
  | atPayload
  /-- 3: WNEXT reached the end of the buffer. -/
  | ended
  /-- 4: WNEXT met an unrecognised type. -/
  | failType
  /-- 5: WNEXT met a payload that runs past the end of the buffer. -/
  | failTrunc
deriving DecidableEq, Repr

/-- The walker registers (10_state R31). -/
structure Walker where
  wstate : WState
  wbase : Word
  wsize : Word
  wcur : Word
  wid : Word
deriving DecidableEq, Repr

/-- The fields of STATUS (10_state R25); `Status.word` (Machine/Flags.lean) is the register's 64-bit value. -/
structure Status where
  busy : Bool
  err : Bool
  cond : Bool
  ovr : Bool
  fseen : Bool
  ecode : BitVec 8
deriving DecidableEq, Repr

/-- The fault codes of 60_exceptions R280. A command that raises one takes a next state with the code in STATUS.ECODE (R281). -/
inductive FaultCode where
  /-- E_ILLEGAL: not a legal command word. -/
  | illegal
  /-- E_FIELD: OFF + WID exceeds the word width. -/
  | field
  /-- E_ALIGN: an operand address is misaligned. -/
  | align
  /-- E_GRAN: N is not a multiple of the granularity. -/
  | gran
  /-- E_STRIDE: stride < N. -/
  | stride
  /-- E_BUS: an access fails MEM_OK or passes 2^64. -/
  | bus
  /-- E_OVERLAP: written bytes intersect read bytes, or two channel rows intersect. -/
  | overlap
  /-- E_TOC_INDEX: descriptor index out of range. -/
  | tocIndex
  /-- E_TOC_ORDER: decreasing offset64. -/
  | tocOrder
  /-- E_ZERO_LEN: a stream record of length 0. -/
  | zeroLen
  /-- E_WALK_UNINIT: WNEXT or WGET before any WINIT. -/
  | walkUninit
deriving DecidableEq, Repr

/-- What a command reads: the argument registers, the walker registers and the memory, all as they stood when it was accepted
(40_control R130, 20_memory R79; log 7). -/
structure Snapshot where
  args : Vector Word 8
  walker : Walker
  mem : Memory
deriving DecidableEq, Repr

/-- The in-flight latch PEND when it is not none (10_state R33), with the model's own fields: the host turns left before the
completion (log 5), the draw that fixes the bytes it leaves if it is raced (log 6), and the host's memory accesses since the accept
(20_memory R79, R82; log 8). -/
structure Pending where
  cmd : Word
  snap : Snapshot
  delay : Nat
  tag : Nat
  hostReads : List Span
  hostWrites : List Span
deriving DecidableEq, Repr

/-- One action of the host or the platform on the bus (log 4). Addresses are of the host's address space. -/
inductive HostEvent where
  /-- A load of `n` bytes. -/
  | load (addr n : Nat)
  /-- A store of bytes in address order. -/
  | store (addr : Nat) (bytes : List Byte)
  /-- The platform asserts RESET (70_reset R310, R311). -/
  | reset
deriving DecidableEq, Repr

/-- What a load of the host answered. -/
inductive HostReply where
  /-- A register's 64-bit value. -/
  | reg (value : Word)
  /-- Memory bytes in address order. -/
  | mem (bytes : List Byte)
deriving DecidableEq, Repr

/-- The block, the memory it shares with the host, and the model's own fields (INVENTORY.md, State). -/
structure State where
  /-- A0..A7 (10_state R22). -/
  args : Vector Word 8
  /-- R0..R7 (10_state R23). -/
  results : Vector Word 8
  /-- CMD (10_state R24). -/
  cmd : Word
  /-- STATUS (10_state R25). -/
  status : Status
  /-- WSTATE, WBASE, WSIZE, WCUR, WID (10_state R31). -/
  walker : Walker
  /-- PEND (10_state R33). -/
  pend : Option Pending
  /-- The memory shared with the host (20_memory R60). -/
  mem : Memory
  /-- Model's own: the open parameters of 00_scope R8 (log 1). -/
  params : Params
  /-- Model's own: the actions of the host and the platform still to come (log 4). -/
  inbox : List HostEvent
  /-- Model's own: what the host's loads answered, newest first (log 4). -/
  replies : List HostReply
  /-- Model's own: the host has read STATUS with BUSY = 0 since the last accept (log 10). -/
  observed : Bool
  /-- Model's own: the bytes the engine wrote that the host has not acquired, each with a value it held before (20_memory R81; logs
  10 and 11). -/
  unseen : List Host.Cell
  /-- Model's own: how many free values have been drawn (log 6). -/
  draws : Nat
deriving DecidableEq, Repr

/-- Why the machine stops with a fault. No command's fault is here: those are next states (60_exceptions R281, R285). -/
inductive Fault where
  /-- Raised by a load or store of the host whose bytes pass the top of the 2^64-byte address space (20_memory R60), an address
  the spec gives no meaning, also where one of them lies in the register window (DESIGN CHOICE, log 21). Safe: the machine stops. -/
  | hostAddress
deriving DecidableEq, Repr

/-- Why the machine has no meaning to give. -/
inductive Refusal where
  /-- Raised by an arm of `exec` whose instruction has no meaning yet (none at present). Safe: the machine stops. -/
  | notModelled (mnemonic : String)
  /-- Raised by a host access to the register window that is not 8 bytes wide and 8-byte aligned (10_state R35: "a model refuses
  the host program that makes it") and does not pass 2^64 (log 21). Safe: the machine stops. -/
  | windowAccess
deriving DecidableEq, Repr

/-- The walker registers after reset (70_reset R310). -/
def walkerReset : Walker := { wstate := .none, wbase := 0, wsize := 0, wcur := 0, wid := 0 }

/-- STATUS after reset (70_reset R310). -/
def statusReset : Status := { busy := false, err := false, cond := false, ovr := false, fseen := false, ecode := 0 }

/-- The machine right after reset with given open parameters: every register at the value of 70_reset R310, memory with nothing
listed, the model's own fields as the logs say. -/
def State.resetWith (p : Params) : State :=
  { args := Vector.replicate 8 0, results := Vector.replicate 8 0, cmd := 0, status := statusReset, walker := walkerReset,
    pend := none, mem := [], params := p, inbox := [], replies := [], observed := true, unseen := [], draws := 0 }

/-- The machine right after reset (70_reset R310), its open parameters any (00_scope R9; log 1). -/
def State.reset : State := State.resetWith Config.params

end Sys2Proof.Machine
end

