-- ==== Sys2Proof/Machine/Flags.lean ====
section
/-! DEFINITION. STATUS and the codes software reads: the register's bits (10_state R25), how the lifecycle writes them (40_control
R130, R131), fault codes (60_exceptions R280) and walker-state values (10_state R32). -/

namespace Sys2Proof.Machine

/-- The ECODE value of a fault (60_exceptions R280). -/
def FaultCode.code : FaultCode → BitVec 8
  | .illegal => 0x01
  | .field => 0x02
  | .align => 0x03
  | .gran => 0x04
  | .stride => 0x05
  | .bus => 0x06
  | .overlap => 0x07
  | .tocIndex => 0x08
  | .tocOrder => 0x09
  | .zeroLen => 0x0A
  | .walkUninit => 0x0B

/-- The value of WSTATE (10_state R32). -/
def WState.code : WState → BitVec 3
  | .none => 0
  | .atHeader => 1
  | .atPayload => 2
  | .ended => 3
  | .failType => 4
  | .failTrunc => 5

/-- The 64-bit value of STATUS (10_state R25): bits not listed there read 0. -/
def Status.word (st : Status) : Word :=
  toWord (bit st.busy + 2 * bit st.err + 4 * bit st.cond + 8 * bit st.ovr + 16 * bit st.fseen + 256 * st.ecode.toNat)

/-- STATUS when a command is accepted (10_state R26, R27, R28, 40_control R130). -/
def Status.accepted (st : Status) : Status := { st with busy := true, err := false, cond := false, ecode := 0 }

/-- STATUS when a command completes without a fault, `finish(cond)` (40_control R131, 10_state R27, R28). -/
def Status.finished (st : Status) (cond : Bool) : Status := { st with busy := false, err := false, cond := cond, ecode := 0 }

/-- STATUS when a command completes with a fault (60_exceptions R281, 10_state R27, R28, R30). -/
def Status.faulted (st : Status) (e : FaultCode) : Status :=
  { st with busy := false, err := true, cond := false, fseen := true, ecode := e.code }

/-- STATUS when the host writes CMD or an argument register while BUSY = 1 (10_state R29). -/
def Status.overrun (st : Status) : Status := { st with ovr := true }

end Sys2Proof.Machine
end

