-- ==== Sys2Proof/Machine/Ops.lean ====
section
/-! DEFINITION. The named operations: bytes of memory, MEM_OK, accepting a command (40_control R130), completing one, with or
without a fault (40_control R131, 60_exceptions R281), and reset (70_reset R310, R311). -/

namespace Sys2Proof.Machine

/-! ## Memory -/

/-- What an address nothing lists reads as (log 3). -/
def unlistedByte : Byte := 0

/-- The byte at an address (20_memory R60). Comparisons of addresses are Booleans, which Lean's kernel evaluates at once. -/
def Memory.read : Memory → Nat → Byte
  | [], _ => unlistedByte
  | (k, v) :: rest, a => bif Nat.beq a k then v else Memory.read rest a

/-- The cells of the other addresses. -/
def Memory.drop : Memory → Nat → Memory
  | [], _ => []
  | (k, v) :: rest, a => bif Nat.beq a k then Memory.drop rest a else (k, v) :: Memory.drop rest a

/-- A cell put in its place among cells of other addresses. -/
def Memory.place (a : Nat) (b : Byte) : Memory → Memory
  | [] => [(a, b)]
  | (k, v) :: rest => bif Nat.blt a k then (a, b) :: (k, v) :: rest else (k, v) :: Memory.place a b rest

/-- Writing one byte; the value an unlisted address reads as removes the entry, so that equal memories are equal lists. -/
def Memory.write (m : Memory) (a : Nat) (b : Byte) : Memory :=
  if b = unlistedByte then Memory.drop m a else Memory.place a b (Memory.drop m a)

/-- The canonical form: addresses strictly rising, below 2^64 (20_memory R60), no entry equal to an unlisted one's value. -/
def Memory.wf : Memory → Bool
  | [] => true
  | (k, v) :: rest =>
    decide (k < 2 ^ 64) && decide (v ≠ unlistedByte) && rest.all (fun c => decide (k < c.1)) && Memory.wf rest

/-- `MemRead(addr, n)`: the little-endian value of n bytes (00_scope R11, 20_memory R61). -/
def memRead (m : Memory) (a : Nat) : Nat → Nat
  | 0 => 0
  | n + 1 => (Memory.read m a).toNat + 256 * memRead m (a + 1) n

/-- `MemWrite(addr, n, v)`: n bytes little-endian (00_scope R11, 20_memory R61). -/
def memWrite (m : Memory) (a : Nat) : Nat → Nat → Memory
  | 0, _ => m
  | n + 1, v => memWrite (Memory.write m a (BitVec.ofNat 8 v)) (a + 1) n (v / 256)

/-- Storing bytes in address order: the host's store. -/
def Memory.storeBytes (m : Memory) (a : Nat) : List Byte → Memory
  | [] => m
  | b :: rest => Memory.storeBytes (Memory.write m a b) (a + 1) rest

/-- Some addresses with the bytes they hold. -/
def Memory.cellsAt (m : Memory) (addrs : List Nat) : List Host.Cell := addrs.map fun a => (a, Memory.read m a)

/-- Two ranges share a byte (43_unpack R172, 44_transpose R193: "intersect"). -/
def Span.meets (r q : Span) : Bool :=
  decide (0 < r.len) && decide (0 < q.len) && decide (r.base < q.base + q.len) && decide (q.base < r.base + r.len)

/-- The register window [BLK_BASE, BLK_BASE + 256) (10_state R34). -/
def blockWindow (p : Params) : Span := ⟨p.blkBase.toNat, 256⟩

/-- A window of MEM_OK admits an access. -/
def windowAdmits (w : Window) (a n : Nat) (k : AccessKind) : Bool :=
  decide (w.base ≤ a) && decide (a + n ≤ w.base + w.size) &&
    match k with
    | .read => w.canRead
    | .write => w.canWrite

/-- MEM_OK(a, n, k) (00_scope R8, 20_memory R62; log 2); the register window is outside it (20_memory R60). -/
def memOk (p : Params) (a n : Nat) (k : AccessKind) : Bool :=
  p.windows.any (fun w => windowAdmits w a n k) && !p.denied.contains (a, n, k) && !Span.meets ⟨a, n⟩ (blockWindow p)

/-- An access the engine may make: inside the address space and MEM_OK; otherwise it is E_BUS (20_memory R62, R63). -/
def accessOk (p : Params) (a n : Nat) (k : AccessKind) : Bool := decide (a + n ≤ 2 ^ 64) && memOk p a n k

/-! ## What a command does -/

/-- How a command ends: a fault, or `finish(cond)` (00_scope R11). -/
inductive Verdict where
  | fault (e : FaultCode)
  | done (cond : Bool)
deriving DecidableEq, Repr

/-- All a command does, as data: how it ends, the result registers and elements it writes, the walker registers it leaves (if it
writes them), and the bytes it reads, the set RS(K) of 20_memory R79. -/
structure Effect where
  verdict : Verdict
  results : List (Fin 8 × Word) := []
  stores : List (Nat × Half) := []
  walker : Option Walker := none
  reads : List Span := []
deriving DecidableEq, Repr

/-- `raise E_X`: the command writes nothing (00_scope R11, 40_control R133); `reads` are the bytes its checks read. -/
def Effect.raise (e : FaultCode) (reads : List Span := []) : Effect := { verdict := .fault e, reads := reads }

/-- The byte ranges a command writes, the set WS(K) of 20_memory R79: one halfword per element (20_memory R65). -/
def Effect.writeSpans (e : Effect) : List Span := e.stores.map fun st => ⟨st.1, 2⟩

/-- The bytes a command writes. -/
def Effect.writeBytes (e : Effect) : List Nat := e.stores.flatMap fun st => [st.1, st.1 + 1]

/-- The first failing check of a list, in its order (40_control R133, 60_exceptions R282): each entry says when it fails. -/
def firstFail : List (Bool × FaultCode) → Option FaultCode
  | [] => none
  | (fails, e) :: rest => if fails then some e else firstFail rest

/-- `A[i]` as a natural (00_scope R11). -/
def Snapshot.arg (x : Snapshot) (i : Fin 8) : Nat := x.args[i].toNat

/-! ## Accept -/

/-- The command in flight reads the registers and memory of its accept (40_control R130, 20_memory R79); with nothing in flight,
which no completion meets, it is those of this instant (log 9). -/
def State.latched (s : State) : Snapshot :=
  match s.pend with
  | some p => p.snap
  | none => ⟨s.args, s.walker, s.mem⟩

/-- Accept of the CMD value `v` with a delay before completion (40_control R130). -/
def State.accept (s : State) (v : Word) (delay : Nat) : State :=
  { s with
    cmd := v
    status := s.status.accepted
    pend := some { cmd := v, snap := ⟨s.args, s.walker, s.mem⟩, delay := delay, tag := s.draws, hostReads := [], hostWrites := [] }
    observed := false }

/-! ## Completion -/

/-- The host broke the condition of 20_memory R79 while the command was in flight: it wrote a byte the command reads or writes, or
read a byte the command writes. -/
def State.raced (s : State) (e : Effect) : Bool :=
  match s.pend with
  | none => false
  | some p =>
    p.hostWrites.any (fun h => e.reads.any (Span.meets h) || e.writeSpans.any (Span.meets h)) ||
      p.hostReads.any (fun h => e.writeSpans.any (Span.meets h))

/-- Result registers written by a command (10_state R23). -/
def writeResults (r : Vector Word 8) : List (Fin 8 × Word) → Vector Word 8
  | [] => r
  | (i, v) :: rest => writeResults (r.set i v) rest

/-- Result registers given free values, one draw each (60_exceptions R281, 20_memory R82). -/
def drawResults (r : Vector Word 8) (n : Nat) : List (Fin 8) → Vector Word 8
  | [] => r
  | i :: rest => drawResults (r.set i (Config.freeWord n)) (n + 1) rest

/-- Elements written by a command (20_memory R65). -/
def applyStores (m : Memory) : List (Nat × Half) → Memory
  | [] => m
  | (a, v) :: rest => applyStores (memWrite m a 2 v.toNat) rest

/-- Bytes given free values, one for each address of a draw (20_memory R82, 70_reset R311). -/
def scramble (m : Memory) (n : Nat) : List Nat → Memory
  | [] => m
  | a :: rest => scramble (Memory.write m a (Config.freeByte n a)) n rest

/-- A walker state WNEXT can leave (45_walker R223), by number modulo 4. -/
def walkChoice (n : Nat) : WState :=
  match Fin.ofNat 4 n with
  | 0 => .atPayload
  | 1 => .ended
  | 2 => .failType
  | 3 => .failTrunc

/-- The walker registers after a raced WNEXT, on which 20_memory R82 is silent: free within what the walker may hold, the cursor
inside the area (log 8). -/
def scrambleWalker (w : Walker) (n : Nat) : Walker :=
  { w with
    wstate := walkChoice (Config.freeChoice n)
    wcur := toWord ((Config.freeWord n).toNat % (w.wsize.toNat + 1))
    wid := Config.freeWord (n + 1) }

/-- The result registers after a command that writes the registers `dests` (40_control R131, 60_exceptions R281, 20_memory R82). -/
def State.resultsAfter (s : State) (dests : List (Fin 8)) (e : Effect) : Vector Word 8 :=
  match e.verdict with
  | .fault _ => drawResults s.results s.draws dests
  | .done _ => if s.raced e then drawResults s.results s.draws dests else writeResults s.results e.results

/-- STATUS after a command; a race does not touch it (20_memory R82). -/
def State.statusAfter (s : State) (e : Effect) : Status :=
  match e.verdict with
  | .fault c => s.status.faulted c
  | .done cond => s.status.finished cond

/-- The walker registers after a command: unchanged by a fault (60_exceptions R281) and by a command that does not write them. -/
def State.walkerAfter (s : State) (e : Effect) : Walker :=
  match e.verdict, e.walker with
  | .fault _, _ => s.walker
  | .done _, none => s.walker
  | .done _, some w => if s.raced e then scrambleWalker w (s.draws + 8) else w

/-- The draw of the bytes a raced command leaves, fixed when it was accepted, so that a load during the command answers the byte that
will stand there (20_memory R81, R82; log 11). -/
def State.raceTag (s : State) : Nat :=
  match s.pend with
  | some p => p.tag
  | none => s.draws

/-- Memory after a command: unchanged by a fault (60_exceptions R281); a raced command leaves any value in every byte it writes
(20_memory R82). -/
def State.memAfter (s : State) (e : Effect) : Memory :=
  match e.verdict with
  | .fault _ => s.mem
  | .done _ => if s.raced e then scramble s.mem s.raceTag e.writeBytes else applyStores s.mem e.stores

/-- The bytes a command wrote, none if it faulted (60_exceptions R281). -/
def Effect.written (e : Effect) : List Nat :=
  match e.verdict with
  | .fault _ => []
  | .done _ => e.writeBytes

/-- The completion of a command (40_control R131), the ONE operation every command ends in: taking a fault (60_exceptions R281) is
its `.fault` case. `dests` are the result registers 30_encoding R108 lists for the command. Draws 0..7 are for results, 8 and 9 for
the walker. The host may still see the old value of what was written (20_memory R81). -/
def State.complete (s : State) (dests : List (Fin 8)) (e : Effect) : State :=
  { s with
    results := s.resultsAfter dests e
    status := s.statusAfter e
    walker := s.walkerAfter e
    mem := s.memAfter e
    pend := none
    unseen := s.unseen ++ Memory.cellsAt s.mem e.written
    draws := s.draws + 10 }

/-! ## Reset -/

/-- RESET (70_reset R310, R311, R312): every register takes its reset value; `writes` are the bytes the abandoned command would
write, each of which holds any value; no other byte changes. What lies outside the block stays: the parameters, the host's actions
to come and the answers it has, and the bytes it has not acquired, with the abandoned ones (log 12). -/
def State.resetNow (s : State) (writes : List Nat) : State :=
  { State.resetWith s.params with
    mem := scramble s.mem s.draws writes
    inbox := s.inbox
    replies := s.replies
    unseen := s.unseen ++ Memory.cellsAt s.mem writes
    draws := s.draws + 1 }

end Sys2Proof.Machine
end

