-- ==== Sys2Proof/Machine/Bitfield.lean ====
section
/-! DEFINITION. Bit-field extraction: BFX32, BFX64 (41_bitfield R150..R152). -/

namespace Sys2Proof.Machine

/-- The result register BFX32 and BFX64 write (30_encoding R108). -/
def bfxDests : List (Fin 8) := [0]

/-- The field of `x` at `off`, `wid` bits wide, of a word of `width` bits: E_FIELD when it does not fit (41_bitfield R150, R151). -/
def extractEffect (width x off wid : Nat) : Effect :=
  if width < off + wid then .raise .field
  else { verdict := .done (decide (fld x off wid ≠ 0)), results := [(0, toWord (fld x off wid))] }

/-- BFX32 uses A0[31:0] only (41_bitfield R150). -/
def bfx32Effect (off wid : Nat) (x : Snapshot) : Effect := extractEffect 32 (fld (x.arg 0) 0 32) off wid

/-- BFX64 uses all of A0 (41_bitfield R151). -/
def bfx64Effect (off wid : Nat) (x : Snapshot) : Effect := extractEffect 64 (x.arg 0) off wid

/-- BFX32 (41_bitfield R150). -/
def execBfx32 (off wid : Nat) (s : State) : Host.Outcome State Fault Refusal :=
  .next (s.complete bfxDests (bfx32Effect off wid s.latched))

/-- BFX64 (41_bitfield R151). -/
def execBfx64 (off wid : Nat) (s : State) : Host.Outcome State Fault Refusal :=
  .next (s.complete bfxDests (bfx64Effect off wid s.latched))

end Sys2Proof.Machine
end

