-- ==== Sys2Proof/Machine/Operands.lean ====
section
/-! DEFINITION. The operand forms of the commands: packed streams and frames (20_memory R67..R73, 43_unpack R170..R172), transpose
operands (44_transpose R190..R193), header words (20_memory R74, 42_header R161), descriptors (20_memory R75), and payload headers
(20_memory R78, 45_walker R221). -/

namespace Sys2Proof.Machine

/-! ## Frames -/

/-- `adcS(S, k)`: the 12-bit ADC k of the cold-data stream at S (43_unpack R170). -/
def adcS (m : Memory) (S k : Nat) : Nat :=
  fld (memRead m (S + 16 + 24 * (k / 16)) 24) (12 * (k % 16)) 12

/-- `adcF(F, c)`: the 12-bit ADC of channel c of the frame at F (43_unpack R171). -/
def adcF (m : Memory) (F c : Nat) : Nat := adcS m (F + 16 + 112 * (c / 64)) (c % 64)

/-- `zext_16` of a 12-bit ADC: an output element (20_memory R73). -/
def element (adc : Nat) : Half := BitVec.ofNat 16 adc

/-- `val(B, c, f)`: the element of channel c and frame f of the frame array at B (44_transpose R190, 20_memory R72). -/
def val (m : Memory) (B c f : Nat) : Half := element (adcF m (B + 240 * f) c)

/-- The checks EXP64, EXP128 and EXP128N share (43_unpack R172): the first that fails. -/
def expCheck (p : Params) (src nin dst nout : Nat) : Option FaultCode :=
  firstFail
    [(decide (src % 8 ≠ 0) || decide (dst % 2 ≠ 0), .align),
     (!accessOk p src nin .read, .bus),
     (!accessOk p dst nout .write, .bus),
     (Span.meets ⟨src, nin⟩ ⟨dst, nout⟩, .overlap)]

/-- An expansion (43_unpack R173..R175): the checks, then the elements; the whole source counts as read (R172; log 19). -/
def expandEffect (p : Params) (src nin dst nout : Nat) (stores : List (Nat × Half)) : Effect :=
  match expCheck p src nin dst nout with
  | some e => .raise e
  | none => { verdict := .done false, stores := stores, reads := [⟨src, nin⟩] }

/-! ## Transpose -/

/-- The channels of a frame (20_memory R72). -/
def channels : List Nat := List.range 128

/-- Row c of the contiguous topology (44_transpose R191). -/
def contigRow (dst stride N c : Nat) : Span := ⟨dst + 2 * (c * stride), 2 * N⟩

/-- Where element (c, f) goes in the contiguous topology (44_transpose R191). -/
def contigAddr (dst stride c f : Nat) : Nat := dst + 2 * (c * stride + f)

/-- The kernel body of the contiguous topology: every channel of every frame (44_transpose R194, R195). -/
def contigBody (m : Memory) (B dst stride N : Nat) : List (Nat × Half) :=
  (List.range N).flatMap fun f => channels.map fun c => (contigAddr dst stride c f, val m B c f)

/-- The bodies of `n` consecutive blocks of `size` frames, the first at frame `start` (44_transpose R198). -/
def contigBlocks (m : Memory) (B dst stride start size n : Nat) : List (Nat × Half) :=
  (List.range n).flatMap fun b =>
    contigBody m (B + 240 * (start + size * b)) (dst + 2 * (start + size * b)) stride size

/-- The decomposition of any N frames, contiguous: blocks of 32, then of 8, then single frames (44_transpose R198). -/
def contigSplit (m : Memory) (B dst stride N : Nat) : List (Nat × Half) :=
  contigBlocks m B dst stride 0 32 (N / 32) ++
    contigBlocks m B dst stride (32 * (N / 32)) 8 (N % 32 / 8) ++
      contigBlocks m B dst stride (32 * (N / 32) + 8 * (N % 32 / 8)) 1 (N % 8)

/-- The checks of the contiguous transpose with granularity g (44_transpose R193; g = 1 is "1" and "any"). -/
def contigCheck (p : Params) (g dst stride B N : Nat) : Option FaultCode :=
  firstFail
    [(decide (N % g ≠ 0), .gran),
     (decide (stride < N), .stride),
     (decide (B % 8 ≠ 0), .align),
     (decide (dst % 2 ≠ 0), .align),
     (!accessOk p B (240 * N) .read, .bus),
     (channels.any (fun c => !accessOk p (contigRow dst stride N c).base (2 * N) .write), .bus),
     (channels.any (fun c => Span.meets (contigRow dst stride N c) ⟨B, 240 * N⟩), .overlap)]

/-- A contiguous transpose of granularity g that writes `stores` (44_transpose R191, R193): A0 = dst, A1 = stride, A2 = B,
A3 = N; N = 0 checks and accesses nothing. -/
def contigEffect (p : Params) (x : Snapshot) (g : Nat) (stores : List (Nat × Half)) : Effect :=
  if x.arg 3 = 0 then { verdict := .done false }
  else match contigCheck p g (x.arg 0) (x.arg 1) (x.arg 2) (x.arg 3) with
    | some e => .raise e
    | none => { verdict := .done false, stores := stores, reads := [⟨x.arg 2, 240 * x.arg 3⟩] }

/-- `P[c]`: the pointer of channel c (44_transpose R192). -/
def pointerAt (m : Memory) (Q c : Nat) : Nat := memRead m (Q + 8 * c) 8

/-- Row c of the pointer-array topology (44_transpose R192). -/
def pointerRow (m : Memory) (Q offset N c : Nat) : Span := ⟨pointerAt m Q c + 2 * offset, 2 * N⟩

/-- Where element (c, f) goes in the pointer-array topology (44_transpose R192). -/
def pointerAddr (m : Memory) (Q offset c f : Nat) : Nat := pointerAt m Q c + 2 * (offset + f)

/-- The kernel body of the pointer-array topology (44_transpose R199). -/
def pointerBody (m : Memory) (Q B offset N : Nat) : List (Nat × Half) :=
  (List.range N).flatMap fun f => channels.map fun c => (pointerAddr m Q offset c f, val m B c f)

/-- The bodies of `n` consecutive blocks of `size` frames, the first at frame `start`: each uses offset plus the first frame of the
block (44_transpose R203). -/
def pointerBlocks (m : Memory) (Q B offset start size n : Nat) : List (Nat × Half) :=
  (List.range n).flatMap fun b =>
    pointerBody m Q (B + 240 * (start + size * b)) (offset + (start + size * b)) size

/-- The decomposition of any N frames, pointer array (44_transpose R203). -/
def pointerSplit (m : Memory) (Q B offset N : Nat) : List (Nat × Half) :=
  pointerBlocks m Q B offset 0 32 (N / 32) ++
    pointerBlocks m Q B offset (32 * (N / 32)) 8 (N % 32 / 8) ++
      pointerBlocks m Q B offset (32 * (N / 32) + 8 * (N % 32 / 8)) 1 (N % 8)

/-- The checks of the pointer-array transpose before the pointers are read (44_transpose R193). -/
def pointerCheckArray (p : Params) (g Q B N : Nat) : Option FaultCode :=
  firstFail
    [(decide (N % g ≠ 0), .gran),
     (decide (B % 8 ≠ 0), .align),
     (decide (Q % 8 ≠ 0), .align),
     (!accessOk p Q 1024 .read, .bus)]

/-- Two different channels' rows share a byte (44_transpose R193). -/
def rowsClash (row : Nat → Span) : Bool :=
  channels.any fun c => channels.any fun d => decide (d ≠ c) && Span.meets (row c) (row d)

/-- The checks of the pointer-array transpose once the pointers are read (44_transpose R193). -/
def pointerCheckRows (p : Params) (m : Memory) (Q offset B N : Nat) : Option FaultCode :=
  firstFail
    [(channels.any (fun c => decide (pointerAt m Q c % 2 ≠ 0)), .align),
     (!accessOk p B (240 * N) .read, .bus),
     (channels.any (fun c => !accessOk p (pointerRow m Q offset N c).base (2 * N) .write), .bus),
     (channels.any (fun c => Span.meets (pointerRow m Q offset N c) ⟨B, 240 * N⟩), .overlap),
     (channels.any (fun c => Span.meets (pointerRow m Q offset N c) ⟨Q, 1024⟩), .overlap),
     (rowsClash (pointerRow m Q offset N), .overlap)]

/-- A pointer-array transpose of granularity g that writes `stores` (44_transpose R192, R193): A0 = Q, A1 = offset, A2 = B,
A3 = N; N = 0 checks and accesses nothing. -/
def pointerEffect (p : Params) (x : Snapshot) (g : Nat) (stores : List (Nat × Half)) : Effect :=
  if x.arg 3 = 0 then { verdict := .done false }
  else match pointerCheckArray p g (x.arg 0) (x.arg 2) (x.arg 3) with
    | some e => .raise e
    | none => match pointerCheckRows p x.mem (x.arg 0) (x.arg 1) (x.arg 2) (x.arg 3) with
      | some e => .raise e [⟨x.arg 0, 1024⟩]
      | none =>
        { verdict := .done false, stores := stores, reads := [⟨x.arg 0, 1024⟩, ⟨x.arg 2, 240 * x.arg 3⟩] }

/-! ## Header words -/

/-- The format nibble of a header word (20_memory R74). -/
def headerFormat (h : Nat) : Nat := fld h 0 4

/-- The type nibble of a header word (20_memory R74, 42_header R162). -/
def headerType (h : Nat) : Nat := fld h 4 4

/-- HLEN_LO[f], HLEN_W[f] (42_header R161). -/
def lengthField (p : Params) (f : Nat) : FieldPos :=
  match f with
  | 0 => p.hlen0
  | 1 => p.hlen1
  | 2 => p.hlen2
  | _ => p.hlen3

/-- N64 of a header word of format f (42_header R161); HDR and SCAN both use it. -/
def headerLength (p : Params) (f h : Nat) : Nat := fld h (lengthField p f).lo (lengthField p f).width

/-! ## Descriptors -/

/-- The per-entry format of a packet descriptor (20_memory R75). -/
def descFormat (d : Nat) : Nat := fld d 0 4

/-- The type of a packet descriptor (20_memory R75): 1 is WibFrame. -/
def descType (d : Nat) : Nat := fld d 4 4

/-- offset64 of a packet descriptor (20_memory R75). -/
def descOffset (d : Nat) : Nat := fld d 8 24

/-- The start of the packet a descriptor points at: X + 8*offset64, reduced mod 2^64 (20_memory R63, R77). -/
def packetAddr (X d : Nat) : Word := toWord (X + 8 * descOffset d)

/-! ## Payload headers -/

/-- A payload as `parse` returns it (45_walker R221). -/
structure Payload where
  addr : Nat
  type : Nat
  body : Nat
  ts : Nat
  size : Nat
  next : Nat
deriving DecidableEq, Repr

/-- The outcomes of `parse` (45_walker R221), and its E_BUS. -/
inductive Parse where
  | payload (q : Payload)
  | areaEnd
  | badType (t : Nat)
  | truncated
  | busError
deriving DecidableEq, Repr

/-- The body size of a recognised payload type (20_memory R78). -/
def bodySize (p : Params) (t : Nat) : Option Nat :=
  if t = p.tcCounter then some p.szCounter
  else if t = p.tcTrigger then some p.szTrigger
  else if t = p.tcTimestamp then some p.szTimestamp
  else if t = p.tcWarning then some p.szWarning
  else if t = p.tcChecksum then some p.szChecksum
  else none

/-- `parse(base, size, o)`: the payload at offset o of an area (45_walker R221). -/
def parse (p : Params) (m : Memory) (base size o : Nat) : Parse :=
  if o = size then .areaEnd
  else if size < o + p.phSize then .truncated
  else if !accessOk p (base + o) p.phSize .read then .busError
  else
    let ph := memRead m (base + o) p.phSize
    let t := fld ph p.phTypeLo p.phTypeW
    match bodySize p t with
    | none => .badType t
    | some sz =>
      if size < o + p.phSize + sz then .truncated
      else .payload
        { addr := base + o, type := t, body := base + o + p.phSize, ts := fld ph p.phTsLo 28, size := sz,
          next := o + p.phSize + sz }

/-- The bytes `parse` reads: the payload header, once it is known to lie in the area and to be accessible (45_walker R221). -/
def parseReads (p : Params) (base size o : Nat) : List Span :=
  if o = size then []
  else if size < o + p.phSize then []
  else if !accessOk p (base + o) p.phSize .read then []
  else [⟨base + o, p.phSize⟩]

end Sys2Proof.Machine
end

