-- ==== Sys2Proof/Machine/Container.lean ====
section
/-! DEFINITION. Stream scan and Toc access: SCAN, TOCDSC, TOCLEN (46_container R250..R256). -/

namespace Sys2Proof.Machine

/-! ## SCAN -/

/-- The result registers SCAN writes (30_encoding R108). -/
def scanDests : List (Fin 8) := [0, 1, 2, 3, 4, 5]

/-- The variables of the scan (46_container R250). -/
structure ScanState where
  p : Nat
  rem : Int
  toc : Option Nat
  rng : Option Nat
  pkt : Option Nat
  nrec : Nat
  dup : Bool
deriving DecidableEq, Repr

/-- The slot `keep` leaves (46_container R250, SCAN_DUP of 00_scope R8). -/
def keepSlot (policy : DupPolicy) (slot : Option Nat) (p : Nat) : Option Nat :=
  if slot = none || policy = .last then some p else slot

/-- One record passed: counted, recorded if its type is one of the three kinds, and the cursor advanced (46_container R250). -/
def ScanState.pass (q : Params) (st : ScanState) (t n : Nat) : ScanState :=
  let isToc := decide (t = q.tToc.toNat)
  let isRng := decide (t = q.tRanges.toNat)
  let isPkt := decide (t = q.tPacket.toNat)
  { p := st.p + 8 * n
    rem := st.rem - n
    toc := if isToc then keepSlot q.scanDup st.toc st.p else st.toc
    rng := if isRng then keepSlot q.scanDup st.rng st.p else st.rng
    pkt := if isPkt then keepSlot q.scanDup st.pkt st.p else st.pkt
    nrec := st.nrec + 1
    dup := st.dup || (isToc && st.toc.isSome) || (isRng && st.rng.isSome) || (isPkt && st.pkt.isSome) }

/-- How a scan ends: a fault, or normally, with the unrecognised format that stopped it, if one did (46_container R250). -/
inductive ScanEnd where
  | fault (e : FaultCode)
  | finished (st : ScanState) (stop : Option Nat)
deriving DecidableEq, Repr

/-- A scan's end and the header bytes it read. -/
structure Scanned where
  last : ScanEnd
  reads : List Span
deriving DecidableEq, Repr

/-- The loop of SCAN (46_container R250). Every record passed has N64 ≥ 1, so a fuel of max(L, 0) is never used up with length
remaining (40_control R134). -/
def scanLoop (q : Params) (m : Memory) : Nat → ScanState → Scanned
  | 0, st => ⟨.finished st none, []⟩
  | fuel + 1, st =>
    if st.rem ≤ 0 then ⟨.finished st none, []⟩
    else if !accessOk q st.p 8 .read then ⟨.fault .bus, []⟩
    else
      let h := memRead m st.p 8
      let f := headerFormat h
      let n := headerLength q f h
      if 2 < f then ⟨.finished st (some f), [⟨st.p, 8⟩]⟩
      else if n = 0 then ⟨.fault .zeroLen, [⟨st.p, 8⟩]⟩
      else
        let r := scanLoop q m fuel (st.pass q (headerType h) n)
        { r with reads := ⟨st.p, 8⟩ :: r.reads }

/-- SCANINFO, the value of R3 (46_container R250). -/
def scanInfo (st : ScanState) (stop : Option Nat) : Nat :=
  st.nrec % 2 ^ 32 + 2 ^ 32 * bit st.toc.isSome + 2 ^ 33 * bit st.rng.isSome + 2 ^ 34 * bit st.pkt.isSome +
    2 ^ 35 * bit st.dup + 2 ^ 36 * bit stop.isSome + 2 ^ 40 * stop.getD 0

/-- The results of a scan that ended normally (46_container R250). -/
def scanResults (st : ScanState) (stop : Option Nat) : List (Fin 8 × Word) :=
  [(0, toWord (st.toc.getD 0)), (1, toWord (st.rng.getD 0)), (2, toWord (st.pkt.getD 0)), (3, toWord (scanInfo st stop)),
   (4, toWord st.p), (5, intWord st.rem)]

/-- The variables before the first record: A0 = stream base, A1 = signed length (46_container R250). -/
def scanStart (x : Snapshot) : ScanState :=
  { p := x.arg 0, rem := sext64 x.args[(1 : Fin 8)], toc := none, rng := none, pkt := none, nrec := 0, dup := false }

/-- SCAN (46_container R250). -/
def scanEffect (q : Params) (x : Snapshot) : Effect :=
  let st := scanStart x
  if 0 < st.rem ∧ st.p % 8 ≠ 0 then .raise .align
  else
    let r := scanLoop q x.mem st.rem.toNat st
    match r.last with
    | .fault e => .raise e r.reads
    | .finished final stop =>
      { verdict := .done stop.isNone, results := scanResults final stop, reads := r.reads }

/-- SCAN (46_container R250). -/
def execScan (s : State) : Host.Outcome State Fault Refusal :=
  .next (s.complete scanDests (scanEffect s.params s.latched))

/-! ## Toc descriptors -/

/-- The result registers TOCDSC and TOCLEN write (30_encoding R108). -/
def tocDests : List (Fin 8) := [0, 1, 2, 3, 4]

/-- The address of descriptor i of the array at D (46_container R252, 20_memory R76). -/
def descAddr (D i : Nat) : Nat := D + 4 * i

/-- The results of TOCDSC for a descriptor (46_container R253). -/
def tocdscResults (X d : Nat) : List (Fin 8 × Word) :=
  [(0, toWord (descFormat d)), (1, toWord (descType d)), (2, toWord (descOffset d)),
   (3, toWord (bit (decide (descType d = 1)))), (4, packetAddr X d)]

/-- TOCDSC: A0 = D, A1 = i, A2 = N, A3 = X (46_container R252, R253). -/
def tocdscEffect (p : Params) (x : Snapshot) : Effect :=
  let a := descAddr (x.arg 0) (x.arg 1)
  match firstFail
      [(decide (x.arg 2 < x.arg 1), .tocIndex),
       (decide (x.arg 0 % 4 ≠ 0), .align),
       (!accessOk p a 4 .read, .bus)] with
  | some e => .raise e
  | none =>
    let d := memRead x.mem a 4
    { verdict := .done (decide (descType d = 1)), results := tocdscResults (x.arg 3) d, reads := [⟨a, 4⟩] }

/-- The results of TOCLEN for a descriptor and its successor's offset64 (46_container R254). -/
def toclenResults (X d0 len : Nat) : List (Fin 8 × Word) :=
  [(0, toWord len), (1, toWord (if descType d0 = 1 then len / 30 else 0)), (2, toWord (len % 30)),
   (3, toWord (descType d0)), (4, packetAddr X d0)]

/-- TOCLEN: A0 = D, A1 = i, A2 = N, A3 = X (46_container R252, R254). -/
def toclenEffect (p : Params) (x : Snapshot) : Effect :=
  let a := descAddr (x.arg 0) (x.arg 1)
  match firstFail
      [(decide (x.arg 2 ≤ x.arg 1), .tocIndex),
       (decide (x.arg 0 % 4 ≠ 0), .align),
       (!accessOk p a 8 .read, .bus)] with
  | some e => .raise e
  | none =>
    let d0 := memRead x.mem a 4
    let d1 := memRead x.mem (a + 4) 4
    if descOffset d1 < descOffset d0 then .raise .tocOrder [⟨a, 8⟩]
    else
      let len := descOffset d1 - descOffset d0
      { verdict := .done (decide (descType d0 = 1) && decide (len % 30 = 0))
        results := toclenResults (x.arg 3) d0 len
        reads := [⟨a, 8⟩] }

/-- TOCDSC (46_container R253). -/
def execTocdsc (s : State) : Host.Outcome State Fault Refusal :=
  .next (s.complete tocDests (tocdscEffect s.params s.latched))

/-- TOCLEN (46_container R254). -/
def execToclen (s : State) : Host.Outcome State Fault Refusal :=
  .next (s.complete tocDests (toclenEffect s.params s.latched))

end Sys2Proof.Machine
end

