-- ==== Sys2Proof/Machine/Control.lean ====
section
/-! DEFINITION. The control command: NOP (40_control R135). -/

namespace Sys2Proof.Machine

/-- NOP does nothing: `finish(0)` (40_control R135). -/
def nopEffect : Effect := { verdict := .done false }

/-- NOP (40_control R135). -/
def execNop (s : State) : Host.Outcome State Fault Refusal := .next (s.complete [] nopEffect)

end Sys2Proof.Machine
end

