-- ==== Sys2Proof/Machine/Header.lean ====
section
/-! DEFINITION. Header decoding: HDR (42_header R160..R162). -/

namespace Sys2Proof.Machine

/-- The result registers HDR writes (30_encoding R108). -/
def hdrDests : List (Fin 8) := [0, 1, 2, 3]

/-- HDR: the format is read first; formats 0..3 have a length, others give 0 (42_header R160). -/
def hdrEffect (p : Params) (x : Snapshot) : Effect :=
  let h := x.arg 0
  let f := headerFormat h
  let known := decide (f ≤ 3)
  let n := if known then headerLength p f h else 0
  { verdict := .done known
    results := [(0, toWord f), (1, toWord (headerType h)), (2, toWord n), (3, toWord (8 * n))] }

/-- HDR (42_header R160). -/
def execHdr (s : State) : Host.Outcome State Fault Refusal := .next (s.complete hdrDests (hdrEffect s.params s.latched))

end Sys2Proof.Machine
end

