-- ==== Sys2Proof/Machine/Transpose.lean ====
section
/-! DEFINITION. Frame transpose: TRC1, TRC8, TRC16, TRC32, TRCN, TRP1, TRP8, TRP16, TRP32, TRPN (44_transpose R190..R205). -/

namespace Sys2Proof.Machine

/-! ## Contiguous topology -/

/-- The elements a contiguous kernel writes with the operands of `x` (44_transpose R191, R195). -/
def contigKernel (x : Snapshot) : List (Nat × Half) := contigBody x.mem (x.arg 2) (x.arg 0) (x.arg 1) (x.arg 3)

/-- TRC1 (44_transpose R194). -/
def trc1Effect (p : Params) (x : Snapshot) : Effect := contigEffect p x 1 (contigKernel x)

/-- TRC8 (44_transpose R195). -/
def trc8Effect (p : Params) (x : Snapshot) : Effect := contigEffect p x 8 (contigKernel x)

/-- TRC16 (44_transpose R196). -/
def trc16Effect (p : Params) (x : Snapshot) : Effect := contigEffect p x 16 (contigKernel x)

/-- TRC32 (44_transpose R197). -/
def trc32Effect (p : Params) (x : Snapshot) : Effect := contigEffect p x 32 (contigKernel x)

/-- TRCN: any N, in blocks of 32, then 8, then single frames (44_transpose R198). -/
def trcnEffect (p : Params) (x : Snapshot) : Effect :=
  contigEffect p x 1 (contigSplit x.mem (x.arg 2) (x.arg 0) (x.arg 1) (x.arg 3))

/-- TRC1 (44_transpose R194). -/
def execTrc1 (s : State) : Host.Outcome State Fault Refusal := .next (s.complete [] (trc1Effect s.params s.latched))

/-- TRC8 (44_transpose R195). -/
def execTrc8 (s : State) : Host.Outcome State Fault Refusal := .next (s.complete [] (trc8Effect s.params s.latched))

/-- TRC16 (44_transpose R196). -/
def execTrc16 (s : State) : Host.Outcome State Fault Refusal := .next (s.complete [] (trc16Effect s.params s.latched))

/-- TRC32 (44_transpose R197). -/
def execTrc32 (s : State) : Host.Outcome State Fault Refusal := .next (s.complete [] (trc32Effect s.params s.latched))

/-- TRCN (44_transpose R198). -/
def execTrcn (s : State) : Host.Outcome State Fault Refusal := .next (s.complete [] (trcnEffect s.params s.latched))

/-! ## Pointer-array topology -/

/-- The elements a pointer-array kernel writes with the operands of `x` (44_transpose R192, R199). -/
def pointerKernel (x : Snapshot) : List (Nat × Half) := pointerBody x.mem (x.arg 0) (x.arg 2) (x.arg 1) (x.arg 3)

/-- TRP1 (44_transpose R199). -/
def trp1Effect (p : Params) (x : Snapshot) : Effect := pointerEffect p x 1 (pointerKernel x)

/-- TRP8 (44_transpose R200). -/
def trp8Effect (p : Params) (x : Snapshot) : Effect := pointerEffect p x 8 (pointerKernel x)

/-- TRP16 (44_transpose R201). -/
def trp16Effect (p : Params) (x : Snapshot) : Effect := pointerEffect p x 16 (pointerKernel x)

/-- TRP32 (44_transpose R202). -/
def trp32Effect (p : Params) (x : Snapshot) : Effect := pointerEffect p x 32 (pointerKernel x)

/-- TRPN: any N, decomposed as TRCN (44_transpose R203). -/
def trpnEffect (p : Params) (x : Snapshot) : Effect :=
  pointerEffect p x 1 (pointerSplit x.mem (x.arg 0) (x.arg 2) (x.arg 1) (x.arg 3))

/-- TRP1 (44_transpose R199). -/
def execTrp1 (s : State) : Host.Outcome State Fault Refusal := .next (s.complete [] (trp1Effect s.params s.latched))

/-- TRP8 (44_transpose R200). -/
def execTrp8 (s : State) : Host.Outcome State Fault Refusal := .next (s.complete [] (trp8Effect s.params s.latched))

/-- TRP16 (44_transpose R201). -/
def execTrp16 (s : State) : Host.Outcome State Fault Refusal := .next (s.complete [] (trp16Effect s.params s.latched))

/-- TRP32 (44_transpose R202). -/
def execTrp32 (s : State) : Host.Outcome State Fault Refusal := .next (s.complete [] (trp32Effect s.params s.latched))

/-- TRPN (44_transpose R203). -/
def execTrpn (s : State) : Host.Outcome State Fault Refusal := .next (s.complete [] (trpnEffect s.params s.latched))

end Sys2Proof.Machine
end

