-- ==== Sys2Proof/Machine/Unpack.lean ====
section
/-! DEFINITION. ADC expansion: EXP64, EXP128, EXP128N (43_unpack R170..R178). No frame is validated (R176). -/

namespace Sys2Proof.Machine

/-- The elements of one cold-data stream at S, written at dst (43_unpack R173). -/
def streamElements (m : Memory) (S dst : Nat) : List (Nat × Half) :=
  (List.range 64).map fun k => (dst + 2 * k, element (adcS m S k))

/-- The elements of one frame at F, written at dst (43_unpack R174). -/
def frameElements (m : Memory) (F dst : Nat) : List (Nat × Half) :=
  channels.map fun c => (dst + 2 * c, element (adcF m F c))

/-- The elements of N frames at B, frame by frame, written at dst (43_unpack R175). -/
def framesElements (m : Memory) (B dst N : Nat) : List (Nat × Half) :=
  (List.range N).flatMap fun f => channels.map fun c => (dst + 2 * (128 * f + c), element (adcF m (B + 240 * f) c))

/-- EXP64: A0 = dst, A2 = stream (43_unpack R173). -/
def exp64Effect (p : Params) (x : Snapshot) : Effect :=
  expandEffect p (x.arg 2) 112 (x.arg 0) 128 (streamElements x.mem (x.arg 2) (x.arg 0))

/-- EXP128: A0 = dst, A2 = frame (43_unpack R174). -/
def exp128Effect (p : Params) (x : Snapshot) : Effect :=
  expandEffect p (x.arg 2) 240 (x.arg 0) 256 (frameElements x.mem (x.arg 2) (x.arg 0))

/-- EXP128N: A0 = dst, A2 = frames, A3 = N; N = 0 checks and accesses nothing (43_unpack R175). -/
def exp128nEffect (p : Params) (x : Snapshot) : Effect :=
  if x.arg 3 = 0 then { verdict := .done false }
  else expandEffect p (x.arg 2) (240 * x.arg 3) (x.arg 0) (256 * x.arg 3)
    (framesElements x.mem (x.arg 2) (x.arg 0) (x.arg 3))

/-- EXP64 (43_unpack R173). -/
def execExp64 (s : State) : Host.Outcome State Fault Refusal := .next (s.complete [] (exp64Effect s.params s.latched))

/-- EXP128 (43_unpack R174). -/
def execExp128 (s : State) : Host.Outcome State Fault Refusal := .next (s.complete [] (exp128Effect s.params s.latched))

/-- EXP128N (43_unpack R175). -/
def execExp128n (s : State) : Host.Outcome State Fault Refusal := .next (s.complete [] (exp128nEffect s.params s.latched))

end Sys2Proof.Machine
end

