-- ==== Sys2Proof/Machine/Walk.lean ====
section
/-! DEFINITION. The PENN payload walker: WINIT, WNEXT, WGET (45_walker R220..R227). -/

namespace Sys2Proof.Machine

/-- The result registers WNEXT and WGET write (30_encoding R108). -/
def walkDests : List (Fin 8) := [0, 1, 2, 3, 4, 5, 6]

/-- R0..R6 for a payload with word_id `id` (45_walker R223, R224, outcome OK of R225). -/
def payloadResults (q : Payload) (id : Nat) : List (Fin 8 × Word) :=
  [(0, toWord q.addr), (1, toWord q.type), (2, toWord q.body), (3, 0), (4, toWord id), (5, toWord q.ts), (6, toWord q.size)]

/-- `null(code, id)` with R1 = t: R0..R6 for an outcome other than OK (45_walker R223, R225). -/
def nullResults (code id t : Nat) : List (Fin 8 × Word) :=
  [(0, 0), (1, toWord t), (2, 0), (3, toWord code), (4, toWord id), (5, 0), (6, 0)]

/-- WINIT: A0 = base, A1 = size (45_walker R222). -/
def winitEffect (x : Snapshot) : Effect :=
  if 2 ^ 64 < x.arg 0 + x.arg 1 then .raise .bus
  else
    { verdict := .done false
      walker := some { wstate := .atHeader, wbase := x.args[(0 : Fin 8)], wsize := x.args[(1 : Fin 8)], wcur := 0, wid := 0 } }

/-- A WNEXT that repeats the outcome of a finished walk without reading memory (45_walker R223). -/
def wnextRepeat (w : Walker) (code : Nat) : Effect :=
  { verdict := .done false, results := nullResults code w.wid.toNat 0 }

/-- WNEXT where the walk goes on: what the payload at the cursor gives (45_walker R223). -/
def wnextParsed (w : Walker) (reads : List Span) : Parse → Effect
  | .payload q =>
    { verdict := .done true, results := payloadResults q w.wid.toNat, reads := reads
      walker := some { w with wstate := .atPayload, wcur := toWord q.next, wid := w.wid + 1 } }
  | .areaEnd =>
    { verdict := .done false, results := nullResults 1 w.wid.toNat 0, reads := reads
      walker := some { w with wstate := .ended } }
  | .badType t =>
    { verdict := .done false, results := nullResults 2 w.wid.toNat t, reads := reads
      walker := some { w with wstate := .failType } }
  | .truncated =>
    { verdict := .done false, results := nullResults 3 w.wid.toNat 0, reads := reads
      walker := some { w with wstate := .failTrunc } }
  | .busError => .raise .bus reads

/-- WNEXT (45_walker R223). -/
def wnextEffect (p : Params) (x : Snapshot) : Effect :=
  let w := x.walker
  let advance :=
    wnextParsed w (parseReads p w.wbase.toNat w.wsize.toNat w.wcur.toNat)
      (parse p x.mem w.wbase.toNat w.wsize.toNat w.wcur.toNat)
  match w.wstate with
  | .none => .raise .walkUninit
  | .ended => wnextRepeat w 1
  | .failType => wnextRepeat w 2
  | .failTrunc => wnextRepeat w 3
  | .atHeader => advance
  | .atPayload => advance

/-- Where a re-scan ended: the last parse, the index it was at, and the bytes read on the way (45_walker R224). -/
structure Found where
  last : Parse
  index : Nat
  reads : List Span
deriving DecidableEq, Repr

/-- The loop of WGET from offset `o`, payload index `k` (45_walker R224). Every payload takes at least one byte (PH_SIZE ≥ 1), so a
fuel of WSIZE + 1 is never used up (40_control R134). -/
def seek (p : Params) (m : Memory) (base size j : Nat) : Nat → Nat → Nat → Found
  | 0, _, k => ⟨.truncated, k, []⟩
  | fuel + 1, o, k =>
    match parse p m base size o with
    | .payload q =>
      if k = j then ⟨.payload q, k, parseReads p base size o⟩
      else
        let f := seek p m base size j fuel q.next (k + 1)
        { f with reads := parseReads p base size o ++ f.reads }
    | other => ⟨other, k, parseReads p base size o⟩

/-- What WGET returns for the payload or outcome its re-scan ended at (45_walker R224). -/
def wgetFound (f : Found) : Effect :=
  match f.last with
  | .payload q => { verdict := .done true, results := payloadResults q f.index, reads := f.reads }
  | .areaEnd => { verdict := .done false, results := nullResults 4 f.index 0, reads := f.reads }
  | .badType t => { verdict := .done false, results := nullResults 2 f.index t, reads := f.reads }
  | .truncated => { verdict := .done false, results := nullResults 3 f.index 0, reads := f.reads }
  | .busError => .raise .bus f.reads

/-- WGET: A0 = word_id; it never writes the walker registers (45_walker R224). -/
def wgetEffect (p : Params) (x : Snapshot) : Effect :=
  match x.walker.wstate with
  | .none => .raise .walkUninit
  | _ => wgetFound
      (seek p x.mem x.walker.wbase.toNat x.walker.wsize.toNat (x.arg 0) (x.walker.wsize.toNat + 1) 0 0)

/-- WINIT (45_walker R222). -/
def execWinit (s : State) : Host.Outcome State Fault Refusal := .next (s.complete [] (winitEffect s.latched))

/-- WNEXT (45_walker R223). -/
def execWnext (s : State) : Host.Outcome State Fault Refusal :=
  .next (s.complete walkDests (wnextEffect s.params s.latched))

/-- WGET (45_walker R224). -/
def execWget (s : State) : Host.Outcome State Fault Refusal :=
  .next (s.complete walkDests (wgetEffect s.params s.latched))

end Sys2Proof.Machine
end

