-- ==== Sys2Proof/Machine/Footprint.lean ====
section
/-! DEFINITION. What each command reads and writes, for the host's side of a race and for reset (20_memory R79..R82, 70_reset R311,
R316). -/

namespace Sys2Proof.Machine

/-- The effect of a command on a snapshot: RS(K) is its `reads`, WS(K) its `writeSpans` (20_memory R79). -/
def effectOf (i : Instr) (p : Params) (x : Snapshot) : Effect :=
  match i with
  | .nop => nopEffect
  | .bfx32 off wid => bfx32Effect off wid x
  | .bfx64 off wid => bfx64Effect off wid x
  | .hdr => hdrEffect p x
  | .exp64 => exp64Effect p x
  | .exp128 => exp128Effect p x
  | .exp128n => exp128nEffect p x
  | .trc1 => trc1Effect p x
  | .trc8 => trc8Effect p x
  | .trc16 => trc16Effect p x
  | .trc32 => trc32Effect p x
  | .trcn => trcnEffect p x
  | .trp1 => trp1Effect p x
  | .trp8 => trp8Effect p x
  | .trp16 => trp16Effect p x
  | .trp32 => trp32Effect p x
  | .trpn => trpnEffect p x
  | .winit => winitEffect x
  | .wnext => wnextEffect p x
  | .wget => wgetEffect p x
  | .scan => scanEffect p x
  | .tocdsc => tocdscEffect p x
  | .toclen => toclenEffect p x

/-- The result registers a command writes (30_encoding R108, 40_control R136). -/
def resultRegs (i : Instr) : List (Fin 8) :=
  match i with
  | .nop => []
  | .bfx32 _ _ => bfxDests
  | .bfx64 _ _ => bfxDests
  | .hdr => hdrDests
  | .exp64 => []
  | .exp128 => []
  | .exp128n => []
  | .trc1 => []
  | .trc8 => []
  | .trc16 => []
  | .trc32 => []
  | .trcn => []
  | .trp1 => []
  | .trp8 => []
  | .trp16 => []
  | .trp32 => []
  | .trpn => []
  | .winit => []
  | .wnext => walkDests
  | .wget => walkDests
  | .scan => scanDests
  | .tocdsc => tocDests
  | .toclen => tocDests

/-- The effect the command in flight will have; an illegal word only faults (30_encoding R106). -/
def State.inFlight (s : State) : Option Effect :=
  match s.pend with
  | none => none
  | some p => match decode p.cmd with
    | .ok i => some (effectOf i s.params p.snap)
    | .error _ => some (.raise .illegal)

/-- The bytes the command in flight will write. -/
def State.inFlightBytes (s : State) : List Nat :=
  match s.inFlight with
  | none => []
  | some e => e.writeBytes

end Sys2Proof.Machine
end

