-- ==== Sys2Proof/Machine/Bus.lean ====
section
/-! DEFINITION. The host's side of the bus: the register window (10_state R34..R37), loads and stores of shared memory (20_memory
R79..R82), and RESET (70_reset R310..R312). -/

namespace Sys2Proof.Machine

/-- The registers of the window (10_state R34). -/
inductive RegName where
  | cmd
  | status
  | wstate
  | wbase
  | wsize
  | wcur
  | wid
  | reserved
  | arg (i : Fin 8)
  | result (i : Fin 8)
deriving DecidableEq, Repr

/-- The register of slot k, at offset 8*k of the window (10_state R34). -/
def regAt (k : Nat) : RegName :=
  match k with
  | 0 => .cmd
  | 1 => .status
  | 2 => .wstate
  | 3 => .wbase
  | 4 => .wsize
  | 5 => .wcur
  | 6 => .wid
  | k =>
    if 8 ≤ k ∧ k < 16 then .arg (Fin.ofNat 8 (k - 8))
    else if 16 ≤ k ∧ k < 24 then .result (Fin.ofNat 8 (k - 16))
    else .reserved

/-- What a host access of n bytes at an address reaches (10_state R34, R35; log 14). -/
inductive Target where
  /-- A register slot. -/
  | register (r : RegName)
  /-- Shared memory. -/
  | memory
  /-- An access to the window of another width or alignment (10_state R35). -/
  | badWindow
  /-- Past the top of the address space (20_memory R60). -/
  | outside
deriving DecidableEq, Repr

/-- Where a host access goes (10_state R34, R35, 20_memory R60; log 14). DESIGN CHOICE: an access that both shares a byte with the
window and passes 2^64 is taken as past the top of the address space, not as an access of R35 (log 21). -/
def target (p : Params) (addr n : Nat) : Target :=
  if 2 ^ 64 < addr + n then .outside
  else if Span.meets ⟨addr, n⟩ (blockWindow p) then
    if n = 8 ∧ p.blkBase.toNat ≤ addr ∧ addr + 8 ≤ p.blkBase.toNat + 256 ∧ (addr - p.blkBase.toNat) % 8 = 0 then
      .register (regAt ((addr - p.blkBase.toNat) / 8))
    else .badWindow
  else .memory

/-- The value a register holds, in its 64-bit slot (10_state R34). -/
def State.regValue (s : State) : RegName → Word
  | .cmd => s.cmd
  | .status => s.status.word
  | .wstate => s.walker.wstate.code.zeroExtend 64
  | .wbase => s.walker.wbase
  | .wsize => s.walker.wsize
  | .wcur => s.walker.wcur
  | .wid => s.walker.wid
  | .reserved => 0
  | .arg i => s.args[i]
  | .result i => s.results[i]

/-- The registers the engine writes: unsettled while a command is in flight and until the host has seen BUSY = 0 (10_state R37,
70_reset R317). -/
def RegName.fromEngine : RegName → Bool
  | .wstate => true
  | .wbase => true
  | .wsize => true
  | .wcur => true
  | .wid => true
  | .result _ => true
  | .cmd => false
  | .status => false
  | .reserved => false
  | .arg _ => false

/-- A load answers. -/
def State.answer (s : State) (r : HostReply) : State := { s with replies := r :: s.replies }

/-- A load of a free register value (10_state R37). -/
def State.answerFree (s : State) : State :=
  { s with replies := .reg (Config.freeWord s.draws) :: s.replies, draws := s.draws + 1 }

/-- A load of STATUS with BUSY = 0 acquires what completed commands wrote (20_memory R81, 10_state R37). -/
def State.acquire (s : State) : State :=
  if s.status.busy then s else { s with observed := true, unseen := [] }

/-- A load of a register (10_state R34..R37). -/
def State.readReg (s : State) (r : RegName) : State :=
  match r with
  | .status => (s.answer (.reg s.status.word)).acquire
  | r => if r.fromEngine && (s.status.busy || !s.observed) then s.answerFree else s.answer (.reg (s.regValue r))

/-- A store to a register (10_state R24, R29, R35, R36, 40_control R130). The delay of an accepted command is drawn (log 5). -/
def State.writeReg (s : State) (r : RegName) (v : Word) : State :=
  match r with
  | .cmd =>
    if s.status.busy then { s with status := s.status.overrun }
    else { s.accept v (Config.latency s.draws) with draws := s.draws + 1 }
  | .arg i =>
    if s.status.busy then { s with status := s.status.overrun } else { s with args := s.args.set i v }
  | _ => s

/-- The values a byte held before the engine wrote it, while the host has not acquired it (20_memory R81, 70_reset R317). -/
def State.oldBytes (s : State) (a : Nat) : List Byte := (s.unseen.filter fun c => c.1 == a).map fun c => c.2

/-- The new values of a byte that the command in flight writes: the one its rule gives, and the one it leaves because a load of the
byte is a race (20_memory R81, R82; log 11). -/
def State.newBytes (s : State) (a : Nat) : List Byte :=
  match s.inFlight with
  | none => []
  | some e => if e.writeBytes.contains a then [Memory.read (applyStores s.mem e.stores) a, Config.freeByte s.raceTag a] else []

/-- A free choice between a byte and others (20_memory R81: "any mix of old and new bytes"). -/
def chooseByte (n : Nat) (b : Byte) : List Byte → Byte
  | [] => b
  | c :: rest => (b :: c :: rest).getD (Config.freeChoice n % (rest.length + 2)) b

/-- The byte a load answers at an address: the one that stands there, or another the host may still or already see (20_memory R81;
log 11). -/
def State.loadByte (s : State) (n a : Nat) : Byte := chooseByte n (Memory.read s.mem a) (s.oldBytes a ++ s.newBytes a)

/-- The bytes a load of memory answers, the choice at each address its own (20_memory R81). -/
def State.loadBytes (s : State) (addr n : Nat) : List Byte := (List.range n).map fun k => s.loadByte (s.draws + k) (addr + k)

/-- The addresses of a store that the engine wrote and the host has not acquired. -/
def State.storeUnseen (s : State) (addr n : Nat) : List Nat :=
  ((List.range n).map fun k => addr + k).filter fun a => s.unseen.any fun c => c.1 == a

/-- A host load of memory is remembered by the command in flight (20_memory R79). -/
def Pending.noteRead (p : Pending) (r : Span) : Pending := { p with hostReads := r :: p.hostReads }

/-- A host store to memory is remembered by the command in flight (20_memory R79). -/
def Pending.noteWrite (p : Pending) (r : Span) : Pending := { p with hostWrites := r :: p.hostWrites }

/-- A load of memory (20_memory R79..R81). -/
def State.loadMem (s : State) (addr n : Nat) : State :=
  { s with
    replies := .mem (s.loadBytes addr n) :: s.replies
    pend := s.pend.map fun p => p.noteRead ⟨addr, n⟩
    draws := s.draws + n }

/-- A store to memory (20_memory R79, R80). What the engine wrote there may still be seen until the next acquire (log 11). -/
def State.storeMem (s : State) (addr : Nat) (bytes : List Byte) : State :=
  { s with
    mem := Memory.storeBytes s.mem addr bytes
    unseen := s.unseen ++ Memory.cellsAt s.mem (s.storeUnseen addr bytes.length)
    pend := s.pend.map fun p => p.noteWrite ⟨addr, bytes.length⟩ }

/-- One action of the host or the platform. -/
def State.hostAct (s : State) (e : HostEvent) : Host.Outcome State Fault Refusal :=
  match e with
  | .load addr n =>
    match target s.params addr n with
    | .register r => .next (s.readReg r)
    | .memory => .next (s.loadMem addr n)
    | .badWindow => .refused .windowAccess
    | .outside => .fault .hostAddress
  | .store addr bytes =>
    match target s.params addr bytes.length with
    | .register r => .next (s.writeReg r (toWord (bytesValue bytes)))
    | .memory => .next (s.storeMem addr bytes)
    | .badWindow => .refused .windowAccess
    | .outside => .fault .hostAddress
  | .reset => .next (s.resetNow s.inFlightBytes)

/-- The host's turn: its next action, or nothing if it has none. -/
def State.hostTurn (s : State) : Host.Outcome State Fault Refusal :=
  match s.inbox with
  | [] => .next s
  | e :: rest => { s with inbox := rest }.hostAct e

end Sys2Proof.Machine
end

