-- ==== Sys2Proof/Machine/Dispatch.lean ====
section
/-! DEFINITION. The dispatch of a command to its meaning: one arm per constructor of Instr. -/

namespace Sys2Proof.Machine

open Sys2Proof

def exec (i : Instr) (s : State) : Host.Outcome State Fault Refusal :=
  match i with
  | .nop => Sys2Proof.Machine.execNop s
  | .bfx32 off wid => Sys2Proof.Machine.execBfx32 off wid s
  | .bfx64 off wid => Sys2Proof.Machine.execBfx64 off wid s
  | .hdr => Sys2Proof.Machine.execHdr s
  | .exp64 => Sys2Proof.Machine.execExp64 s
  | .exp128 => Sys2Proof.Machine.execExp128 s
  | .exp128n => Sys2Proof.Machine.execExp128n s
  | .trc1 => Sys2Proof.Machine.execTrc1 s
  | .trc8 => Sys2Proof.Machine.execTrc8 s
  | .trc16 => Sys2Proof.Machine.execTrc16 s
  | .trc32 => Sys2Proof.Machine.execTrc32 s
  | .trcn => Sys2Proof.Machine.execTrcn s
  | .trp1 => Sys2Proof.Machine.execTrp1 s
  | .trp8 => Sys2Proof.Machine.execTrp8 s
  | .trp16 => Sys2Proof.Machine.execTrp16 s
  | .trp32 => Sys2Proof.Machine.execTrp32 s
  | .trpn => Sys2Proof.Machine.execTrpn s
  | .winit => Sys2Proof.Machine.execWinit s
  | .wnext => Sys2Proof.Machine.execWnext s
  | .wget => Sys2Proof.Machine.execWget s
  | .scan => Sys2Proof.Machine.execScan s
  | .tocdsc => Sys2Proof.Machine.execTocdsc s
  | .toclen => Sys2Proof.Machine.execToclen s

end Sys2Proof.Machine
end

