-- ==== Sys2Proof/Machine/Engine.lean ====
section
/-! DEFINITION. The engine's side of a step: the completion of the command in PEND (40_control R131), and whose turn it is. -/

namespace Sys2Proof.Machine

/-- The completion of a command word (40_control R131): a legal word is performed, an illegal one faults E_ILLEGAL and writes
nothing (30_encoding R106). -/
def State.engineTurn (s : State) (v : Word) : Host.Outcome State Fault Refusal :=
  match decode v with
  | .ok i => exec i s
  | .error _ => .next (s.complete [] (.raise .illegal))

/-- One host turn fewer before the completion. -/
def Pending.tick (p : Pending) : Pending := { p with delay := p.delay - 1 }

/-- Whose turn it is (log 4, log 5): the engine's once the delay of the command in flight is over, the host's otherwise. -/
def State.turn (s : State) : Host.Outcome State Fault Refusal :=
  match s.pend with
  | none => s.hostTurn
  | some p => if p.delay = 0 then s.engineTurn p.cmd else { s with pend := some p.tick }.hostTurn

/-- The command whose bits are `w` (as spec/opcode_table.json numbers them, the bits above `nbits` 0) accepted with no delay, so that
the next step performs it (log 13). -/
def State.issueWord (s : State) (nbits w : Nat) : State := s.accept (BitVec.ofNat 64 (w % 2 ^ nbits)) 0

end Sys2Proof.Machine
end

