-- ==== Sys2Proof/Machine/Step.lean ====
section
/-! DEFINITION. One step of the machine, and how a command word is placed for the next step. -/

namespace Sys2Proof.Machine

/-- One step: the completion of the command in flight, or one action of the host (40_control R130, R131; log 4). -/
def step (s : State) : Host.Outcome State Fault Refusal := s.turn

/-- `s` with the command word accepted (40_control R130) and due at the next step (log 13). -/
def State.withFetchWord (s : State) (nbits w : Nat) : State := s.issueWord nbits w

end Sys2Proof.Machine
end

