-- ==== Sys2Proof/Safety.lean ====
section
/-! DEFINITION. The terms in which claims are stated: what stays as it was, the invariants of the machine, well-formed streams and
payload areas, and what a clean run is. -/

namespace Sys2Proof.Machine

/-! ## What stays as it was -/

/-- Every byte of memory reads as before. -/
def SameMemory (s t : State) : Prop := ∀ a, Memory.read t.mem a = Memory.read s.mem a

/-- Every byte of memory outside the elements stored at `addrs` reads as before. -/
def SameMemoryOutside (addrs : List Nat) (s t : State) : Prop :=
  ∀ a, (∀ b ∈ addrs, a ≠ b ∧ a ≠ b + 1) → Memory.read t.mem a = Memory.read s.mem a

/-- Every result register outside `dests` is as before (40_control R136). -/
def SameResultsOutside (dests : List (Fin 8)) (s t : State) : Prop :=
  ∀ i : Fin 8, i ∉ dests → t.results[i] = s.results[i]

/-- What no command touches: A0..A7, CMD (10_state R22, R24), the parameters, and the host's side. -/
structure Untouched (s t : State) : Prop where
  args : t.args = s.args
  cmd : t.cmd = s.cmd
  params : t.params = s.params
  inbox : t.inbox = s.inbox
  replies : t.replies = s.replies
  observed : t.observed = s.observed

/-- The registers of the block and its memory are as before. -/
structure SameBlock (s t : State) : Prop where
  args : t.args = s.args
  results : t.results = s.results
  cmd : t.cmd = s.cmd
  status : t.status = s.status
  walker : t.walker = s.walker
  mem : t.mem = s.mem

/-- The command in flight, if there is one, is as before but for its delay and the host's accesses it remembers (10_state R29). -/
def SameInFlight (s t : State) : Prop :=
  (s.pend = none → t.pend = none) ∧
    ∀ p, s.pend = some p → ∃ p', t.pend = some p' ∧ p'.cmd = p.cmd ∧ p'.snap = p.snap

/-- A command completed without a fault: `finish(cond)` (40_control R131). OVR and FSEEN are as before, BUSY, ERR and ECODE are 0. -/
structure Finished (s t : State) (cond : Bool) : Prop where
  busy : t.status.busy = false
  err : t.status.err = false
  ecode : t.status.ecode = 0
  cond : t.status.cond = cond
  ovr : t.status.ovr = s.status.ovr
  fseen : t.status.fseen = s.status.fseen
  pend : t.pend = none
  untouched : Untouched s t

/-- A command completed with the fault of a code (60_exceptions R281). -/
structure Faulted (s t : State) (code : BitVec 8) : Prop where
  busy : t.status.busy = false
  err : t.status.err = true
  ecode : t.status.ecode = code
  cond : t.status.cond = false
  ovr : t.status.ovr = s.status.ovr
  fseen : t.status.fseen = true
  pend : t.pend = none
  untouched : Untouched s t
  mem : SameMemory s t
  walker : t.walker = s.walker

/-- The host kept the discipline of 20_memory R79 for the command with this effect: it wrote no byte the command reads or writes,
and read no byte the command writes, while the command was in flight. -/
def Disciplined (s : State) (e : Effect) : Prop := s.raced e = false

/-! ## Invariants -/

/-- BUSY says that a command is in flight (10_state R26), and PEND agrees with the registers the host can no longer write (10_state
R29, R33): the command word, the operands and the walker are those of the accept, ERR, COND and ECODE are cleared (R27, R28). -/
def State.LifecycleInv (s : State) : Prop :=
  (s.status.busy = true ↔ s.pend ≠ none) ∧
    ∀ p, s.pend = some p →
      p.cmd = s.cmd ∧ p.snap.args = s.args ∧ p.snap.walker = s.walker ∧
        s.status.err = false ∧ s.status.cond = false ∧ s.status.ecode = 0 ∧ s.observed = false

/-- ERR and ECODE go together, the code is one of R280's, a fault has been seen, and a fault leaves COND 0 (10_state R27, R28, R30,
60_exceptions R280). -/
def State.StatusInv (s : State) : Prop :=
  (s.status.err = true ↔ s.status.ecode ≠ 0) ∧ s.status.ecode.toNat ≤ 11 ∧
    (s.status.err = true → s.status.fseen = true ∧ s.status.cond = false)

/-- The walker registers agree with WSTATE (10_state R32), and the cursor stays in an area inside the address space (45_walker R220,
R222). -/
def State.WalkerInv (s : State) : Prop :=
  (s.walker.wstate = .none → s.walker = walkerReset) ∧
    (s.walker.wstate = .atHeader → s.walker.wcur = 0 ∧ s.walker.wid = 0) ∧
      s.walker.wbase.toNat + s.walker.wsize.toNat ≤ 2 ^ 64 ∧ s.walker.wcur.toNat ≤ s.walker.wsize.toNat

/-- Memory, and the memory of the accept, are in canonical form (log 3). -/
def State.MemoryInv (s : State) : Prop :=
  Memory.wf s.mem = true ∧ ∀ p, s.pend = some p → Memory.wf p.snap.mem = true

/-! ## Turns -/

/-- The engine's turn: a command is in flight and its delay is over (40_control R131). -/
def State.Due (s : State) (p : Pending) : Prop := s.pend = some p ∧ p.delay = 0

/-- The host's turn: no command is due. -/
def State.HostTurn (s : State) : Prop := ∀ p, s.pend = some p → p.delay ≠ 0

/-- The next step is a RESET (70_reset R310). -/
def State.ResetNext (s : State) : Prop := s.HostTurn ∧ s.inbox.head? = some .reset

/-- An action of the host the machine has a meaning for, other than RESET (10_state R35, 20_memory R60). -/
def HostEvent.plain (p : Params) (e : HostEvent) : Prop :=
  match e with
  | .load addr n => target p addr n = .memory ∨ ∃ r, target p addr n = .register r
  | .store addr bytes => target p addr bytes.length = .memory ∨ ∃ r, target p addr bytes.length = .register r
  | .reset => False

/-- The address of slot k of the register window (10_state R34). -/
def slotAddr (p : Params) (k : Nat) : Nat := p.blkBase.toNat + 8 * k

/-! ## Payload areas (45_walker R221) -/

/-- The offset of payload k of an area, if the payloads before it are recognised, fit, and have accessible headers. -/
def payloadOffset (p : Params) (m : Memory) (base size : Nat) : Nat → Option Nat
  | 0 => some 0
  | k + 1 =>
    match payloadOffset p m base size k with
    | none => none
    | some o =>
      match parse p m base size o with
      | .payload q => some q.next
      | _ => none

/-! ## Streams (46_container R250, R251) -/

/-- A scan with `rem` words left at `start` passes exactly these records, (type, N64) each, one after another: at each of them some
length is left, the header is accessible, its format is recognised and its length is not 0. -/
def PassesRecords (q : Params) (m : Memory) : Nat → Int → List (Nat × Nat) → Prop
  | _, _, [] => True
  | start, rem, (t, n) :: rest =>
    0 < rem ∧ accessOk q start 8 .read = true ∧ headerFormat (memRead m start 8) ≤ 2 ∧
      headerType (memRead m start 8) = t ∧ headerLength q (headerFormat (memRead m start 8)) (memRead m start 8) = n ∧ n ≠ 0 ∧
        PassesRecords q m (start + 8 * n) (rem - n) rest

/-- The total length of records in words. -/
def recordWords : List (Nat × Nat) → Nat
  | [] => 0
  | (_, n) :: rest => n + recordWords rest

/-- The addresses of the records of one type, in order, of a stream at `start`. -/
def recordsOfType (ty : Nat) : Nat → List (Nat × Nat) → List Nat
  | _, [] => []
  | start, (t, n) :: rest => (if t = ty then [start] else []) ++ recordsOfType ty (start + 8 * n) rest

/-- The record SCAN reports of those of a kind: the last or the first (SCAN_DUP), 0 if there is none (46_container R250). -/
def reported (policy : DupPolicy) (addrs : List Nat) : Nat :=
  match policy with
  | .last => addrs.getLast?.getD 0
  | .first => addrs.head?.getD 0

/-! ## Clean runs -/

/-- No fault and no lost write since reset: the premise of a claim about a host program (10_state R30, 70_reset R315). -/
def State.Clean (s : State) : Prop := s.status.fseen = false ∧ s.status.ovr = false

end Sys2Proof.Machine
end

