-- ==== Sys2Proof/Certificates/Slice0/Obligations.lean ====
section
/-! DEFINITION. The statements about the block, by file of spec/. Nothing here is proved. -/

open Sys2Proof Sys2Proof.Machine

/-! ## Encoding (30_encoding) -/

/-- Decoding the encoding of a well-formed command gives the command back (R101..R106). -/
def Obligations.DecodeEncodeRoundTrip : Prop :=
  ∀ i : Instr, i.wellFormed = true → decode (encode i) = .ok i

/-- A legal CMD value is the encoding of the command it decodes to, which is well-formed: every legal word has one meaning and no
bit of it is dropped (R101..R106). -/
def Obligations.EncodeDecodeExact : Prop :=
  ∀ (v : Word) (i : Instr), decode v = .ok i → encode i = v ∧ i.wellFormed = true

/-- The legality rule of R106 in its two forms: by fields, and by the rows of the opcode table, of which a legal word matches the
one of its mnemonic and no other. -/
def Obligations.LegalWordsAreTableRows : Prop :=
  ∀ v : Word,
    ((∃ i, decode v = .ok i) ↔
      v.toNat / 2 ^ 32 = 0 ∧
        ((v.toNat % 256 ∈ [0x00, 0x18, 0x20, 0x21, 0x22, 0x30, 0x31, 0x32, 0x33, 0x34, 0x38, 0x39, 0x3A, 0x3B, 0x3C,
            0x40, 0x41, 0x42, 0x48, 0x50, 0x51] ∧ v.toNat / 2 ^ 8 % 2 ^ 24 = 0) ∨
          (v.toNat % 256 ∈ [0x10, 0x11] ∧ v.toNat / 2 ^ 21 % 2 ^ 11 = 0))) ∧
    ((∃ i, decode v = .ok i) ↔ (opcodeTable.filter fun r => r.holds v).length = 1) ∧
    ∀ i, decode v = .ok i → ∀ r ∈ opcodeTable, r.holds v = true ↔ r.mnemonic = i.mnemonic

/-- The encoding examples of R112. -/
def Obligations.SampleWordsDecode : Prop :=
  decode 0x00000000 = .ok .nop ∧ decode 0x00000018 = .ok .hdr ∧ decode 0x00000034 = .ok .trcn ∧
    decode 0x0000003C = .ok .trpn ∧ decode 0x00000048 = .ok .scan ∧ decode 0x00060811 = .ok (.bfx64 8 24) ∧
    decode 0x00020410 = .ok (.bfx32 4 8) ∧ decode 0x00100011 = .ok (.bfx64 0 64) ∧
    decode 0x00007F11 = .ok (.bfx64 63 1) ∧ decode 0x00000011 = .ok (.bfx64 0 0) ∧
    (∀ i, decode 0x00000035 ≠ .ok i) ∧ ∀ i, decode 0x00000118 ≠ .ok i

/-! ## The lifecycle (10_state, 40_control) -/

/-- A step with a legal command due is the meaning of the command it decodes to, and nothing around it; and a command word placed
for the next step is run by it (40_control R131; log 13). -/
def Obligations.StepRunsDecodedCommand : Prop :=
  (∀ (s : State) (p : Pending) (i : Instr), s.Due p → decode p.cmd = .ok i → i.wellFormed = true ∧ step s = exec i s) ∧
    ∀ (s : State) (i : Instr), i.wellFormed = true →
      step (s.withFetchWord 32 (encode i).toNat) = exec i (s.withFetchWord 32 (encode i).toNat)

/-- An illegal command word completes with E_ILLEGAL and leaves memory, every result register and the walker unchanged (30_encoding
R106, 60_exceptions R281). -/
def Obligations.IllegalWordFaults : Prop :=
  ∀ (s : State) (p : Pending) (e : DecodeError), s.Due p → decode p.cmd = .error e →
    ∃ t, step s = .next t ∧ Faulted s t 0x01 ∧ t.results = s.results

/-- A host write of any value to CMD while BUSY = 0 is accepted: CMD and PEND take it with the operands and the walker of this
instant, BUSY is set, ERR, ECODE and COND cleared, and no other register changes (40_control R130). The delay and the draw of the accept, any, and the memory in PEND are the
model's choice (logs 5, 6 and 7). -/
def Obligations.CmdWriteIsAccepted : Prop :=
  ∀ (s : State) (bytes : List Byte) (rest : List HostEvent), s.pend = none → s.status.busy = false → bytes.length = 8 →
    s.inbox = .store (slotAddr s.params 0) bytes :: rest →
    ∃ t delay tag, step s = .next t ∧ t.cmd = toWord (bytesValue bytes) ∧
      t.pend = some ⟨toWord (bytesValue bytes), ⟨s.args, s.walker, s.mem⟩, delay, tag, [], []⟩ ∧
      t.status = { busy := true, err := false, cond := false, ovr := s.status.ovr, fseen := s.status.fseen, ecode := 0 } ∧
      t.args = s.args ∧ t.results = s.results ∧ t.walker = s.walker ∧ t.mem = s.mem ∧ t.params = s.params ∧ t.inbox = rest ∧
      t.replies = s.replies

/-- R29: a host write to CMD or an argument register while BUSY = 1 sets OVR and is otherwise ignored, the command in flight
unaffected; no step but RESET clears OVR, and RESET does. -/
def Obligations.BusyWritesSetOverrun : Prop :=
  (∀ (s : State) (k : Nat) (bytes : List Byte) (rest : List HostEvent), s.HostTurn → s.status.busy = true →
    bytes.length = 8 → (k = 0 ∨ 8 ≤ k ∧ k < 16) → s.inbox = .store (slotAddr s.params k) bytes :: rest →
    ∃ t, step s = .next t ∧ t.status = { s.status with ovr := true } ∧ t.cmd = s.cmd ∧ t.args = s.args ∧
      t.results = s.results ∧ t.walker = s.walker ∧ t.mem = s.mem ∧ t.inbox = rest ∧ SameInFlight s t) ∧
  (∀ s t : State, step s = .next t → s.status.ovr = true → t.status.ovr = true ∨ s.ResetNext) ∧
  ∀ s t : State, s.ResetNext → step s = .next t → t.status.ovr = false

/-- R30: FSEEN is set by every command that completes with a fault; no step but RESET clears it, and RESET does. -/
def Obligations.FaultSeenIsSticky : Prop :=
  (∀ (s t : State) (p : Pending), s.Due p → step s = .next t → t.status.err = true → t.status.fseen = true) ∧
  (∀ s t : State, step s = .next t → s.status.fseen = true → t.status.fseen = true ∨ s.ResetNext) ∧
  ∀ s t : State, s.ResetNext → step s = .next t → t.status.fseen = false

/-- R36: a host write to STATUS, a walker register or a result register changes nothing; a host write to an argument register
while BUSY = 0 replaces its whole value and changes nothing else. -/
def Obligations.HostRegisterWrites : Prop :=
  (∀ (s : State) (k : Nat) (bytes : List Byte) (rest : List HostEvent), s.HostTurn → bytes.length = 8 →
    (1 ≤ k ∧ k ≤ 6 ∨ 16 ≤ k ∧ k < 24) → s.inbox = .store (slotAddr s.params k) bytes :: rest →
    ∃ t, step s = .next t ∧ SameBlock s t ∧ SameInFlight s t ∧ t.replies = s.replies ∧ t.inbox = rest) ∧
  ∀ (s : State) (i : Fin 8) (bytes : List Byte) (rest : List HostEvent), s.HostTurn → s.status.busy = false →
    bytes.length = 8 → s.inbox = .store (slotAddr s.params (8 + i)) bytes :: rest →
    ∃ t, step s = .next t ∧ t.args = s.args.set i (toWord (bytesValue bytes)) ∧ t.results = s.results ∧ t.cmd = s.cmd ∧
      t.status = s.status ∧ t.walker = s.walker ∧ t.mem = s.mem ∧ SameInFlight s t ∧ t.replies = s.replies ∧ t.inbox = rest

/-- R35: a read of a reserved offset answers 0, a write to one is ignored, and an access to the window that is not 8 bytes wide and
8-byte aligned is refused; alignment is that of the offset in the window, and an access across the window's edge is refused too, which
is the model's choice (log 14); an access past 2^64 is not in the clause, it faults (log 21). -/
def Obligations.WindowAccessRules : Prop :=
  (∀ (s : State) (k : Nat) (rest : List HostEvent), s.HostTurn → (k = 7 ∨ 24 ≤ k ∧ k < 32) →
    s.inbox = .load (slotAddr s.params k) 8 :: rest →
    ∃ t, step s = .next t ∧ t.replies = .reg 0 :: s.replies ∧ SameBlock s t ∧ SameInFlight s t) ∧
  (∀ (s : State) (k : Nat) (bytes : List Byte) (rest : List HostEvent), s.HostTurn → (k = 7 ∨ 24 ≤ k ∧ k < 32) →
    bytes.length = 8 → s.inbox = .store (slotAddr s.params k) bytes :: rest →
    ∃ t, step s = .next t ∧ t.replies = s.replies ∧ SameBlock s t ∧ SameInFlight s t) ∧
  ∀ (s : State) (addr n a : Nat) (rest : List HostEvent), s.HostTurn → addr + n ≤ 2 ^ 64 →
    addr ≤ a → a < addr + n → s.params.blkBase.toNat ≤ a → a < s.params.blkBase.toNat + 256 →
    ¬ (n = 8 ∧ ∃ k, addr = slotAddr s.params k) →
    (s.inbox = .load addr n :: rest → step s = .refused .windowAccess) ∧
      ∀ bytes : List Byte, bytes.length = n → s.inbox = .store addr bytes :: rest → step s = .refused .windowAccess

/-- R37 and 70_reset R317: a read of a result or walker register while BUSY = 1, or before the host has seen BUSY = 0 since the last
accept, answers a free value and changes no register; once the host has seen BUSY = 0 it answers the register's value; a read of CMD,
STATUS or an argument register always answers the current value. The form of the free value (log 6) and of what the host has seen
(`observed`, log 10) is the model's choice. -/
def Obligations.RegisterReads : Prop :=
  (∀ (s : State) (k : Nat) (rest : List HostEvent), s.HostTurn → (s.status.busy = true ∨ s.observed = false) →
    (2 ≤ k ∧ k ≤ 6 ∨ 16 ≤ k ∧ k < 24) → s.inbox = .load (slotAddr s.params k) 8 :: rest →
    ∃ t, step s = .next t ∧ t.replies = .reg (Config.freeWord s.draws) :: s.replies ∧ SameBlock s t ∧ SameInFlight s t) ∧
  (∀ (s : State) (k : Nat) (v : Word) (rest : List HostEvent), s.HostTurn → s.status.busy = false → s.observed = true →
    (k = 2 ∧ v = s.walker.wstate.code.zeroExtend 64 ∨ k = 3 ∧ v = s.walker.wbase ∨ k = 4 ∧ v = s.walker.wsize ∨
      k = 5 ∧ v = s.walker.wcur ∨ k = 6 ∧ v = s.walker.wid ∨ ∃ i : Fin 8, k = 16 + i ∧ v = s.results[i]) →
    s.inbox = .load (slotAddr s.params k) 8 :: rest →
    ∃ t, step s = .next t ∧ t.replies = .reg v :: s.replies ∧ SameBlock s t ∧ SameInFlight s t) ∧
  ∀ (s : State) (k : Nat) (v : Word) (rest : List HostEvent), s.HostTurn →
    (k = 0 ∧ v = s.cmd ∨ k = 1 ∧ v = s.status.word ∨ ∃ i : Fin 8, k = 8 + i ∧ v = s.args[i]) →
    s.inbox = .load (slotAddr s.params k) 8 :: rest →
    ∃ t, step s = .next t ∧ t.replies = .reg v :: s.replies ∧ SameBlock s t ∧ SameInFlight s t

/-- The host's loads and stores of shared memory (20_memory R79..R82). A store puts its bytes in place and changes no other byte and
no register. A load changes no byte and no register, and answers what stands at each byte that neither the command in flight writes
nor a completed one wrote unacquired. Between a command's completion and a STATUS read with BUSY = 0 a load answers at each byte the
old or the new value; after that read, what stands there. The form of the acquire is the model's choice (`observed`, `unseen`, logs 10
and 11). -/
def Obligations.StatusReadAcquiresMemory : Prop :=
  (∀ (s : State) (addr : Nat) (bytes : List Byte) (rest : List HostEvent), s.HostTurn →
    target s.params addr bytes.length = .memory → s.inbox = .store addr bytes :: rest →
    ∃ t, step s = .next t ∧ (∀ k b, bytes[k]? = some b → Memory.read t.mem (addr + k) = b) ∧
      (∀ a, a < addr ∨ addr + bytes.length ≤ a → Memory.read t.mem a = Memory.read s.mem a) ∧
      t.args = s.args ∧ t.results = s.results ∧ t.cmd = s.cmd ∧ t.status = s.status ∧ t.walker = s.walker ∧
      SameInFlight s t ∧ t.replies = s.replies ∧ t.inbox = rest) ∧
  (∀ (s : State) (addr n : Nat) (rest : List HostEvent), s.HostTurn → target s.params addr n = .memory →
    s.inbox = .load addr n :: rest →
    ∃ t bytes, step s = .next t ∧ t.replies = .mem bytes :: s.replies ∧ bytes.length = n ∧
      (∀ k, k < n → addr + k ∉ s.inFlightBytes → (∀ c ∈ s.unseen, c.1 ≠ addr + k) →
        bytes[k]? = some (Memory.read s.mem (addr + k))) ∧
      SameBlock s t ∧ SameInFlight s t ∧ t.inbox = rest) ∧
  (∀ (s t : State) (p : Pending) (addr n : Nat) (rest : List HostEvent), s.Due p → s.unseen = [] → step s = .next t →
    target s.params addr n = .memory → s.inbox = .load addr n :: rest →
    ∃ u bytes, step t = .next u ∧ u.replies = .mem bytes :: s.replies ∧ bytes.length = n ∧
      ∀ k, k < n → bytes[k]? = some (Memory.read s.mem (addr + k)) ∨ bytes[k]? = some (Memory.read t.mem (addr + k))) ∧
  ∀ (s : State) (addr n : Nat) (rest : List HostEvent), s.pend = none → s.status.busy = false →
    target s.params addr n = .memory → s.inbox = .load (slotAddr s.params 1) 8 :: .load addr n :: rest →
    ∃ t u, step s = .next t ∧ step t = .next u ∧ t.observed = true ∧ t.unseen = [] ∧
      u.replies = .mem ((List.range n).map fun k => Memory.read s.mem (addr + k)) :: .reg s.status.word :: s.replies ∧
      SameBlock s u

/-- The bits of STATUS (10_state R25): the six fields in their places, every other bit 0. -/
def Obligations.StatusWordLayout : Prop :=
  ∀ st : Status, st.word.getLsbD 0 = st.busy ∧ st.word.getLsbD 1 = st.err ∧ st.word.getLsbD 2 = st.cond ∧
    st.word.getLsbD 3 = st.ovr ∧ st.word.getLsbD 4 = st.fseen ∧ (st.word.extractLsb' 8 8) = st.ecode ∧
    (∀ k, 5 ≤ k → k < 8 → st.word.getLsbD k = false) ∧ ∀ k, 16 ≤ k → st.word.getLsbD k = false

/-- Whatever the delay of an accepted command, it completes: after that many turns of the host, none of them a RESET or an access
without meaning, and one of the engine, nothing is in flight and BUSY = 0 (40_control R131; the count of turns is the model's choice, log 5). -/
def Obligations.AcceptedCommandCompletes : Prop :=
  ∀ (s : State) (p : Pending), s.LifecycleInv → s.pend = some p →
    (∀ e ∈ s.inbox.take p.delay, HostEvent.plain s.params e) →
    ∃ t, Sys2Proof.core.run (p.delay + 1) s = .next t ∧ t.pend = none ∧ t.status.busy = false

/-- Every step keeps BUSY and PEND in agreement, and PEND in agreement with the registers (10_state R26, R29, R33). -/
def Obligations.LifecycleKept : Prop := ∀ s t : State, s.LifecycleInv → step s = .next t → t.LifecycleInv

/-- Every step keeps ERR, ECODE, FSEEN and COND in agreement (10_state R27, R28, R30, 60_exceptions R280). -/
def Obligations.StatusKept : Prop := ∀ s t : State, s.StatusInv → step s = .next t → t.StatusInv

/-- Every step keeps the walker registers in agreement and the cursor inside an area inside the address space (10_state R32,
45_walker R220, R222; after a raced WNEXT that is the model's choice, log 8). -/
def Obligations.WalkerKept : Prop :=
  ∀ s t : State, s.LifecycleInv → s.WalkerInv → step s = .next t → t.WalkerInv

/-- Every step keeps memory in canonical form; in particular no command and no host action writes past 2^64 (20_memory R60, R63;
the form itself is the model's, log 3). -/
def Obligations.MemoryFormKept : Prop := ∀ s t : State, s.MemoryInv → step s = .next t → t.MemoryInv

/-- The state after reset meets the four invariants. -/
def Obligations.ResetMeetsInvariants : Prop :=
  State.reset.LifecycleInv ∧ State.reset.StatusInv ∧ State.reset.WalkerInv ∧ State.reset.MemoryInv

/-- RESET at any time: every register takes its value of R310, no byte outside the write set of an abandoned command changes (R311),
and the block is idle, so that a CMD write is accepted next. What stays outside the block is the model's choice (log 12). -/
def Obligations.ResetAtAnyTime : Prop :=
  ∀ (s : State) (rest : List HostEvent), s.HostTurn → s.inbox = .reset :: rest →
    ∃ t, step s = .next t ∧ (∀ i : Fin 8, t.args[i] = 0 ∧ t.results[i] = 0) ∧ t.cmd = 0 ∧ t.status.word = 0 ∧
      t.walker.wstate.code = 0 ∧ t.walker.wbase = 0 ∧ t.walker.wsize = 0 ∧ t.walker.wcur = 0 ∧ t.walker.wid = 0 ∧
      t.pend = none ∧ t.params = s.params ∧ t.inbox = rest ∧ t.replies = s.replies ∧
      ∀ a, a ∉ s.inFlightBytes → Memory.read t.mem a = Memory.read s.mem a

/-- The machine itself stops only at a host access: a fault past the top of the address space, a refusal for an access to the window
of another width or alignment (10_state R35, 20_memory R60, 60_exceptions R281: a fault of a command never stops the block). The form of the stops and
which of them an access that is both takes are the model's choice (logs 14 and 21). -/
def Obligations.OnlyHostAccessesStop : Prop :=
  (∀ (s : State) (f : Fault), step s = .fault f → s.HostTurn ∧ ∃ rest,
    (∃ addr n, s.inbox = .load addr n :: rest ∧ 2 ^ 64 < addr + n) ∨
      ∃ addr bytes, s.inbox = .store addr bytes :: rest ∧ 2 ^ 64 < addr + bytes.length) ∧
  ∀ (s : State) (r : Refusal), step s = .refused r → r = .windowAccess ∧ s.HostTurn ∧ ∃ rest,
    (∃ addr n, s.inbox = .load addr n :: rest ∧ target s.params addr n = .badWindow) ∨
      ∃ addr bytes, s.inbox = .store addr bytes :: rest ∧ target s.params addr bytes.length = .badWindow

/-! ## All commands (20_memory, 40_control, 60_exceptions) -/

/-- What a command may touch: never A0..A7 or CMD (10_state R22, R24), only the result registers 30_encoding R108 lists for it (R136),
the walker registers only by WINIT and WNEXT (10_state R31), memory only by the expansions and transposes. -/
def Obligations.CommandFrame : Prop :=
  ∀ (i : Instr) (s t : State), exec i s = .next t →
    Untouched s t ∧ SameResultsOutside (resultRegs i) s t ∧ t.status.ovr = s.status.ovr ∧
      (i ≠ .winit → i ≠ .wnext → t.walker = s.walker) ∧
      (i ∉ [Instr.exp64, .exp128, .exp128n, .trc1, .trc8, .trc16, .trc32, .trcn, .trp1, .trp8, .trp16, .trp32, .trpn] →
        SameMemory s t)

/-- A fault is precise: a command that ends with ERR = 1 has changed STATUS and, at most, the result registers it writes; its code is
one of 0x01..0x0B (60_exceptions R280, R281). -/
def Obligations.FaultsArePrecise : Prop :=
  ∀ (i : Instr) (s t : State), exec i s = .next t → t.status.err = true →
    ∃ code : BitVec 8, 1 ≤ code.toNat ∧ code.toNat ≤ 11 ∧ Faulted s t code ∧ SameResultsOutside (resultRegs i) s t

/-- The host's accesses to memory during a command change neither how it ends nor any byte outside its write set (20_memory R82; what
else a race does is the model's choice, log 8). -/
def Obligations.RaceKeepsStatus : Prop :=
  ∀ (i : Instr) (s t u : State) (p : Pending) (hr hw : List Span), s.pend = some p → exec i s = .next t →
    exec i { s with pend := some { p with hostReads := hr, hostWrites := hw } } = .next u →
    u.status = t.status ∧
      ∀ a, a ∉ (effectOf i s.params p.snap).writeBytes →
        Memory.read t.mem a = Memory.read s.mem a ∧ Memory.read u.mem a = Memory.read s.mem a

/-- A command's whole effect depends on memory only through the bytes it reads (20_memory R79: its read set; what a faulting command
has read is the model's reading, log 19). -/
def Obligations.EffectDependsOnReadSet : Prop :=
  ∀ (i : Instr) (p : Params) (x : Snapshot) (m : Memory),
    (∀ r ∈ (effectOf i p x).reads, ∀ a, r.base ≤ a → a < r.base + r.len → Memory.read m a = Memory.read x.mem a) →
    effectOf i p { x with mem := m } = effectOf i p x

/-- Every command writes no byte it reads and no byte twice (40_control R132). -/
def Obligations.WritesAreDisjoint : Prop :=
  ∀ (i : Instr) (p : Params) (x : Snapshot),
    (effectOf i p x).writeBytes.Nodup ∧
      ∀ r ∈ (effectOf i p x).reads, ∀ a ∈ (effectOf i p x).writeBytes, ¬ (r.base ≤ a ∧ a < r.base + r.len)

/-- The engine never accesses the register window nor an address past 2^64 (20_memory R60, R63). -/
def Obligations.EngineStaysInMemory : Prop :=
  ∀ (i : Instr) (p : Params) (x : Snapshot), ∀ r ∈ (effectOf i p x).reads ++ (effectOf i p x).writeSpans,
    r.base + r.len ≤ 2 ^ 64 ∧
      (r.base + r.len ≤ p.blkBase.toNat ∨ p.blkBase.toNat + 256 ≤ r.base)

/-- The bounds of R134 on the loops: SCAN reads at most max(L, 0) headers, WGET at most min(j + 1, WSIZE). -/
def Obligations.LoopsAreBounded : Prop :=
  (∀ (q : Params) (x : Snapshot), (scanEffect q x).reads.length ≤ (sext64 x.args[(1 : Fin 8)]).toNat) ∧
    ∀ (p : Params) (x : Snapshot), (wgetEffect p x).reads.length ≤ min (x.arg 0 + 1) x.walker.wsize.toNat

/-! ## NOP, bit fields, header (40_control, 41_bitfield, 42_header) -/

/-- NOP completes with COND = 0 and no effect on registers or memory (R135). -/
def Obligations.NopCompletes : Prop :=
  ∀ s : State, ∃ t, exec .nop s = .next t ∧ Finished s t false ∧ SameMemory s t ∧ t.results = s.results ∧
    t.walker = s.walker

/-- BFX32: R0 is the field of A0[31:0], COND whether it is nonzero; E_FIELD when OFF + WID > 32 (R150). -/
def Obligations.Bfx32Extracts : Prop :=
  ∀ (s : State) (off wid : Nat),
    (off + wid ≤ 32 → ∃ t, exec (.bfx32 off wid) s = .next t ∧
      t.results[0] = BitVec.ofNat 64 (s.latched.arg 0 % 2 ^ 32 / 2 ^ off % 2 ^ wid) ∧
      Finished s t (decide (s.latched.arg 0 % 2 ^ 32 / 2 ^ off % 2 ^ wid ≠ 0)) ∧
      SameResultsOutside [0] s t ∧ SameMemory s t ∧ t.walker = s.walker) ∧
    (32 < off + wid → ∃ t, exec (.bfx32 off wid) s = .next t ∧ Faulted s t 0x02 ∧ SameResultsOutside [0] s t)

/-- BFX64: R0 is the field of A0, COND whether it is nonzero; E_FIELD when OFF + WID > 64 (R151). -/
def Obligations.Bfx64Extracts : Prop :=
  ∀ (s : State) (off wid : Nat),
    (off + wid ≤ 64 → ∃ t, exec (.bfx64 off wid) s = .next t ∧
      t.results[0] = BitVec.ofNat 64 (s.latched.arg 0 / 2 ^ off % 2 ^ wid) ∧
      Finished s t (decide (s.latched.arg 0 / 2 ^ off % 2 ^ wid ≠ 0)) ∧
      SameResultsOutside [0] s t ∧ SameMemory s t ∧ t.walker = s.walker) ∧
    (64 < off + wid → ∃ t, exec (.bfx64 off wid) s = .next t ∧ Faulted s t 0x02 ∧ SameResultsOutside [0] s t)

/-- HDR: format, type, N64 and bytes of a recognised header; N64 and bytes 0 otherwise (R160). -/
def Obligations.HdrDecodes : Prop :=
  ∀ (s : State) (h f : Nat), h = s.latched.arg 0 → f = h % 16 →
    ∃ t, exec .hdr s = .next t ∧ Finished s t (decide (f ≤ 3)) ∧ t.results[0] = BitVec.ofNat 64 f ∧
      t.results[1] = BitVec.ofNat 64 (h / 16 % 16) ∧
      (∀ pos : FieldPos,
        (f = 0 ∧ pos = s.params.hlen0 ∨ f = 1 ∧ pos = s.params.hlen1 ∨ f = 2 ∧ pos = s.params.hlen2 ∨
          f = 3 ∧ pos = s.params.hlen3) →
        t.results[2] = BitVec.ofNat 64 (h / 2 ^ pos.lo % 2 ^ pos.width) ∧
          t.results[3] = BitVec.ofNat 64 (8 * (h / 2 ^ pos.lo % 2 ^ pos.width))) ∧
      (3 < f → t.results[2] = 0 ∧ t.results[3] = 0) ∧
      SameResultsOutside [0, 1, 2, 3] s t ∧ SameMemory s t ∧ t.walker = s.walker

/-! ## Expansion (20_memory, 43_unpack) -/

/-- The packing of R70 and the extraction of R71: ADC k of a stream is bits [12k+11 : 12k] of its twelve packed words, and within a
group of three words a, b, c each of the sixteen ADCs is the bits R71 lists. -/
def Obligations.PackedAdcExtraction : Prop :=
  (∀ (m : Memory) (S k : Nat), k < 64 → adcS m S k = memRead m (S + 16) 96 / 2 ^ (12 * k) % 2 ^ 12) ∧
  ∀ (m : Memory) (S g a b c : Nat), g < 4 → a = memRead m (S + 16 + 24 * g) 8 → b = memRead m (S + 24 + 24 * g) 8 →
    c = memRead m (S + 32 + 24 * g) 8 →
    (List.range 16).map (fun i => adcS m S (16 * g + i)) =
      [a % 2 ^ 12, a / 2 ^ 12 % 2 ^ 12, a / 2 ^ 24 % 2 ^ 12, a / 2 ^ 36 % 2 ^ 12, a / 2 ^ 48 % 2 ^ 12,
       a / 2 ^ 60 + b % 2 ^ 8 * 2 ^ 4, b / 2 ^ 8 % 2 ^ 12, b / 2 ^ 20 % 2 ^ 12, b / 2 ^ 32 % 2 ^ 12, b / 2 ^ 44 % 2 ^ 12,
       b / 2 ^ 56 + c % 2 ^ 4 * 2 ^ 8, c / 2 ^ 4 % 2 ^ 12, c / 2 ^ 16 % 2 ^ 12, c / 2 ^ 28 % 2 ^ 12, c / 2 ^ 40 % 2 ^ 12,
       c / 2 ^ 52]

/-- EXP64 writes the 64 ADCs of the stream, zero-extended, and no other byte (R173). -/
def Obligations.Exp64Expands : Prop :=
  ∀ (s : State) (x : Snapshot), x = s.latched → x.arg 2 % 8 = 0 → x.arg 0 % 2 = 0 →
    x.arg 2 + 112 ≤ 2 ^ 64 → memOk s.params (x.arg 2) 112 .read = true →
    x.arg 0 + 128 ≤ 2 ^ 64 → memOk s.params (x.arg 0) 128 .write = true →
    (x.arg 2 + 112 ≤ x.arg 0 ∨ x.arg 0 + 128 ≤ x.arg 2) → Disciplined s (exp64Effect s.params x) →
    ∃ t, exec .exp64 s = .next t ∧ Finished s t false ∧
      (∀ k, k < 64 → memRead t.mem (x.arg 0 + 2 * k) 2 = adcS x.mem (x.arg 2) k) ∧
      SameMemoryOutside ((List.range 64).map fun k => x.arg 0 + 2 * k) s t ∧ t.results = s.results ∧ t.walker = s.walker

/-- EXP128 writes the 128 ADCs of the frame, stream 0 first, and no other byte (R171, R174). -/
def Obligations.Exp128Expands : Prop :=
  ∀ (s : State) (x : Snapshot), x = s.latched → x.arg 2 % 8 = 0 → x.arg 0 % 2 = 0 →
    x.arg 2 + 240 ≤ 2 ^ 64 → memOk s.params (x.arg 2) 240 .read = true →
    x.arg 0 + 256 ≤ 2 ^ 64 → memOk s.params (x.arg 0) 256 .write = true →
    (x.arg 2 + 240 ≤ x.arg 0 ∨ x.arg 0 + 256 ≤ x.arg 2) → Disciplined s (exp128Effect s.params x) →
    ∃ t, exec .exp128 s = .next t ∧ Finished s t false ∧
      (∀ k, k < 64 → memRead t.mem (x.arg 0 + 2 * k) 2 = adcS x.mem (x.arg 2 + 16) k ∧
        memRead t.mem (x.arg 0 + 2 * (64 + k)) 2 = adcS x.mem (x.arg 2 + 128) k) ∧
      SameMemoryOutside ((List.range 128).map fun c => x.arg 0 + 2 * c) s t ∧ t.results = s.results ∧ t.walker = s.walker

/-- EXP128N writes the ADCs of N frames, frame by frame, and no other byte (R175). -/
def Obligations.Exp128nExpands : Prop :=
  ∀ (s : State) (x : Snapshot), x = s.latched → x.arg 3 ≠ 0 → x.arg 2 % 8 = 0 → x.arg 0 % 2 = 0 →
    x.arg 2 + 240 * x.arg 3 ≤ 2 ^ 64 → memOk s.params (x.arg 2) (240 * x.arg 3) .read = true →
    x.arg 0 + 256 * x.arg 3 ≤ 2 ^ 64 → memOk s.params (x.arg 0) (256 * x.arg 3) .write = true →
    (x.arg 2 + 240 * x.arg 3 ≤ x.arg 0 ∨ x.arg 0 + 256 * x.arg 3 ≤ x.arg 2) → Disciplined s (exp128nEffect s.params x) →
    ∃ t, exec .exp128n s = .next t ∧ Finished s t false ∧
      (∀ f c, f < x.arg 3 → c < 128 →
        memRead t.mem (x.arg 0 + 2 * (128 * f + c)) 2 = adcF x.mem (x.arg 2 + 240 * f) c) ∧
      SameMemoryOutside ((List.range (128 * x.arg 3)).map fun k => x.arg 0 + 2 * k) s t ∧ t.results = s.results ∧
      t.walker = s.walker

/-- R178: re-packing the 64 elements EXP64 writes gives the stream's 12 packed words back, and bits [15:12] of every element
are 0. -/
def Obligations.RepackRoundTrip : Prop :=
  ∀ (s t : State) (x : Snapshot), x = s.latched → Disciplined s (exp64Effect s.params x) → exec .exp64 s = .next t →
    t.status.err = false →
    ((List.range 64).map fun k => memRead t.mem (x.arg 0 + 2 * k) 2 % 2 ^ 12 * 2 ^ (12 * k)).sum =
        memRead x.mem (x.arg 2 + 16) 96 ∧
      ∀ k, k < 64 → memRead t.mem (x.arg 0 + 2 * k) 2 / 2 ^ 12 = 0

namespace Sys2Proof.Claims

/-- The command faults with a code. -/
def FaultsWith (i : Instr) (s : State) (code : BitVec 8) : Prop :=
  ∃ t, exec i s = .next t ∧ Faulted s t code ∧ SameResultsOutside (resultRegs i) s t

/-- The order of the checks of R172 for an expansion of `nin` bytes into `nout`: alignment, source, destination, overlap. -/
def ExpansionChecks (i : Instr) (s : State) (src nin dst nout : Nat) : Prop :=
  ((src % 8 ≠ 0 ∨ dst % 2 ≠ 0) → FaultsWith i s 0x03) ∧
  (src % 8 = 0 → dst % 2 = 0 → (2 ^ 64 < src + nin ∨ memOk s.params src nin .read = false) → FaultsWith i s 0x06) ∧
  (src % 8 = 0 → dst % 2 = 0 → src + nin ≤ 2 ^ 64 → memOk s.params src nin .read = true →
    (2 ^ 64 < dst + nout ∨ memOk s.params dst nout .write = false) → FaultsWith i s 0x06) ∧
  (src % 8 = 0 → dst % 2 = 0 → src + nin ≤ 2 ^ 64 → memOk s.params src nin .read = true → dst + nout ≤ 2 ^ 64 →
    memOk s.params dst nout .write = true → src < dst + nout → dst < src + nin → FaultsWith i s 0x07)

end Sys2Proof.Claims

open Sys2Proof.Claims

/-- The checks of R172 and their order, for EXP64, EXP128 and, with N > 0, EXP128N. -/
def Obligations.ExpansionFaultOrder : Prop :=
  ∀ (s : State) (x : Snapshot), x = s.latched →
    ExpansionChecks .exp64 s (x.arg 2) 112 (x.arg 0) 128 ∧ ExpansionChecks .exp128 s (x.arg 2) 240 (x.arg 0) 256 ∧
      (x.arg 3 ≠ 0 → ExpansionChecks .exp128n s (x.arg 2) (240 * x.arg 3) (x.arg 0) (256 * x.arg 3))

namespace Sys2Proof.Claims

/-- Two memories agree on word j of the record at `base`, for every j that counts as packed ADCs. -/
def SamePacked (m m' : Memory) (base : Nat) (packed : Nat → Prop) : Prop :=
  ∀ j b, packed j → b < 8 → Memory.read m (base + 8 * j + b) = Memory.read m' (base + 8 * j + b)

/-- The words of a frame that hold packed ADCs: not the headers 0..3, 16 and 17 (20_memory R68..R70). -/
def PackedWord (j : Nat) : Prop := 4 ≤ j ∧ j < 16 ∨ 18 ≤ j ∧ j < 30

end Sys2Proof.Claims

/-- No expansion or transpose looks at header words: not at words 0 and 1 of a stream (EXP64), not at words 0..3, 16 and 17 of a frame
(all others). Two memories that agree on the packed words, and for a pointer-array transpose on the pointers, give the same effect
(R176). -/
def Obligations.FrameHeadersAreIgnored : Prop :=
  ∀ (p : Params) (x y : Snapshot), x.args = y.args →
    (SamePacked x.mem y.mem (x.arg 2) (fun j => 2 ≤ j ∧ j < 14) → exp64Effect p x = exp64Effect p y) ∧
    (SamePacked x.mem y.mem (x.arg 2) PackedWord → exp128Effect p x = exp128Effect p y) ∧
    ((∀ f, f < x.arg 3 → SamePacked x.mem y.mem (x.arg 2 + 240 * f) PackedWord) →
      exp128nEffect p x = exp128nEffect p y ∧ trc1Effect p x = trc1Effect p y ∧ trc8Effect p x = trc8Effect p y ∧
        trc16Effect p x = trc16Effect p y ∧ trc32Effect p x = trc32Effect p y ∧ trcnEffect p x = trcnEffect p y ∧
        ((∀ b, b < 1024 → Memory.read x.mem (x.arg 0 + b) = Memory.read y.mem (x.arg 0 + b)) →
          trp1Effect p x = trp1Effect p y ∧ trp8Effect p x = trp8Effect p y ∧ trp16Effect p x = trp16Effect p y ∧
            trp32Effect p x = trp32Effect p y ∧ trpnEffect p x = trpnEffect p y))

/-! ## Transpose (44_transpose) -/

namespace Sys2Proof.Claims

/-- A contiguous transpose of granularity g does what R190, R191 say: with operands that pass the checks of R193, element (c, f)
stands at dst + 2*(c*stride + f), and no other byte changes. -/
def TransposesContiguous (i : Instr) (g : Nat) : Prop :=
  ∀ (s : State) (x : Snapshot) (dst stride B N : Nat), x = s.latched → dst = x.arg 0 → stride = x.arg 1 → B = x.arg 2 →
    N = x.arg 3 → N ≠ 0 → N % g = 0 → N ≤ stride → B % 8 = 0 → dst % 2 = 0 →
    B + 240 * N ≤ 2 ^ 64 → memOk s.params B (240 * N) .read = true →
    (∀ c, c < 128 → dst + 2 * (c * stride + N) ≤ 2 ^ 64 ∧ memOk s.params (dst + 2 * (c * stride)) (2 * N) .write = true) →
    (∀ c, c < 128 → dst + 2 * (c * stride + N) ≤ B ∨ B + 240 * N ≤ dst + 2 * (c * stride)) →
    Disciplined s (effectOf i s.params x) →
    ∃ t, exec i s = .next t ∧ Finished s t false ∧
      (∀ c f, c < 128 → f < N → memRead t.mem (dst + 2 * (c * stride + f)) 2 = adcF x.mem (B + 240 * f) c) ∧
      (∀ a, (∀ c f, c < 128 → f < N → a ≠ dst + 2 * (c * stride + f) ∧ a ≠ dst + 2 * (c * stride + f) + 1) →
        Memory.read t.mem a = Memory.read s.mem a) ∧
      t.results = s.results ∧ t.walker = s.walker

/-- A pointer-array transpose of granularity g does what R190, R192 say: with operands that pass the checks of R193, element (c, f)
stands at P[c] + 2*(offset + f), and no other byte changes. -/
def TransposesByPointer (i : Instr) (g : Nat) : Prop :=
  ∀ (s : State) (x : Snapshot) (Q offset B N : Nat) (P : Nat → Nat), x = s.latched → Q = x.arg 0 → offset = x.arg 1 →
    B = x.arg 2 → N = x.arg 3 → (∀ c, c < 128 → P c = memRead x.mem (Q + 8 * c) 8) →
    N ≠ 0 → N % g = 0 → B % 8 = 0 → Q % 8 = 0 → Q + 1024 ≤ 2 ^ 64 → memOk s.params Q 1024 .read = true →
    (∀ c, c < 128 → P c % 2 = 0) → B + 240 * N ≤ 2 ^ 64 → memOk s.params B (240 * N) .read = true →
    (∀ c, c < 128 → P c + 2 * (offset + N) ≤ 2 ^ 64 ∧ memOk s.params (P c + 2 * offset) (2 * N) .write = true) →
    (∀ c, c < 128 → P c + 2 * (offset + N) ≤ B ∨ B + 240 * N ≤ P c + 2 * offset) →
    (∀ c, c < 128 → P c + 2 * (offset + N) ≤ Q ∨ Q + 1024 ≤ P c + 2 * offset) →
    (∀ c d, c < 128 → d < 128 → c ≠ d → P c + 2 * N ≤ P d ∨ P d + 2 * N ≤ P c) →
    Disciplined s (effectOf i s.params x) →
    ∃ t, exec i s = .next t ∧ Finished s t false ∧
      (∀ c f, c < 128 → f < N → memRead t.mem (P c + 2 * (offset + f)) 2 = adcF x.mem (B + 240 * f) c) ∧
      (∀ a, (∀ c f, c < 128 → f < N → a ≠ P c + 2 * (offset + f) ∧ a ≠ P c + 2 * (offset + f) + 1) →
        Memory.read t.mem a = Memory.read s.mem a) ∧
      t.results = s.results ∧ t.walker = s.walker

/-- With N = 0 a command completes without a check or an access (R282). -/
def NothingToDo (i : Instr) : Prop :=
  ∀ s : State, s.latched.arg 3 = 0 → ∃ t, exec i s = .next t ∧ Finished s t false ∧ SameMemory s t ∧
    t.results = s.results ∧ t.walker = s.walker

/-- Row c of the contiguous topology is accessible. -/
def ContigRowOk (s : State) (dst stride N c : Nat) : Prop :=
  dst + 2 * (c * stride + N) ≤ 2 ^ 64 ∧ memOk s.params (dst + 2 * (c * stride)) (2 * N) .write = true

/-- The order of the checks of R193, contiguous form, for granularity g and N > 0. -/
def ContiguousChecks (i : Instr) (g : Nat) (s : State) (dst stride B N : Nat) : Prop :=
  (N % g ≠ 0 → FaultsWith i s 0x04) ∧
  (N % g = 0 → stride < N → FaultsWith i s 0x05) ∧
  (N % g = 0 → N ≤ stride → (B % 8 ≠ 0 ∨ dst % 2 ≠ 0) → FaultsWith i s 0x03) ∧
  (N % g = 0 → N ≤ stride → B % 8 = 0 → dst % 2 = 0 →
    (2 ^ 64 < B + 240 * N ∨ memOk s.params B (240 * N) .read = false ∨ ∃ c, c < 128 ∧ ¬ ContigRowOk s dst stride N c) →
    FaultsWith i s 0x06) ∧
  (N % g = 0 → N ≤ stride → B % 8 = 0 → dst % 2 = 0 → B + 240 * N ≤ 2 ^ 64 →
    memOk s.params B (240 * N) .read = true → (∀ c, c < 128 → ContigRowOk s dst stride N c) →
    (∃ c, c < 128 ∧ B < dst + 2 * (c * stride + N) ∧ dst + 2 * (c * stride) < B + 240 * N) → FaultsWith i s 0x07)

/-- Row c of the pointer-array topology is accessible. -/
def PointerRowOk (s : State) (P : Nat → Nat) (offset N c : Nat) : Prop :=
  P c + 2 * (offset + N) ≤ 2 ^ 64 ∧ memOk s.params (P c + 2 * offset) (2 * N) .write = true

/-- The order of the checks of R193, pointer-array form, for granularity g and N > 0. -/
def PointerChecks (i : Instr) (g : Nat) (s : State) (P : Nat → Nat) (Q offset B N : Nat) : Prop :=
  (N % g ≠ 0 → FaultsWith i s 0x04) ∧
  (N % g = 0 → (B % 8 ≠ 0 ∨ Q % 8 ≠ 0) → FaultsWith i s 0x03) ∧
  (N % g = 0 → B % 8 = 0 → Q % 8 = 0 → (2 ^ 64 < Q + 1024 ∨ memOk s.params Q 1024 .read = false) → FaultsWith i s 0x06) ∧
  (N % g = 0 → B % 8 = 0 → Q % 8 = 0 → Q + 1024 ≤ 2 ^ 64 → memOk s.params Q 1024 .read = true →
    ((∃ c, c < 128 ∧ P c % 2 ≠ 0) → FaultsWith i s 0x03) ∧
    ((∀ c, c < 128 → P c % 2 = 0) →
      ((2 ^ 64 < B + 240 * N ∨ memOk s.params B (240 * N) .read = false ∨ ∃ c, c < 128 ∧ ¬ PointerRowOk s P offset N c) →
        FaultsWith i s 0x06) ∧
      (B + 240 * N ≤ 2 ^ 64 → memOk s.params B (240 * N) .read = true → (∀ c, c < 128 → PointerRowOk s P offset N c) →
        ((∃ c, c < 128 ∧ B < P c + 2 * (offset + N) ∧ P c + 2 * offset < B + 240 * N) ∨
          (∃ c, c < 128 ∧ Q < P c + 2 * (offset + N) ∧ P c + 2 * offset < Q + 1024) ∨
          (∃ c d, c < 128 ∧ d < 128 ∧ c ≠ d ∧ P c < P d + 2 * N ∧ P d < P c + 2 * N)) → FaultsWith i s 0x07)))

/-- Two kernels on the same operands end with the same memory and STATUS. -/
def SameEnd (i j : Instr) (s : State) : Prop :=
  ∀ t u, exec i s = .next t → exec j s = .next u → u.mem = t.mem ∧ u.status = t.status

end Sys2Proof.Claims

/-- TRC1, TRC8, TRC16, TRC32 and TRCN transpose N frames into the contiguous topology (R190, R191, R194..R198). -/
def Obligations.ContiguousTransposes : Prop :=
  TransposesContiguous .trc1 1 ∧ TransposesContiguous .trc8 8 ∧ TransposesContiguous .trc16 16 ∧
    TransposesContiguous .trc32 32 ∧ TransposesContiguous .trcn 1

/-- TRP1, TRP8, TRP16, TRP32 and TRPN transpose N frames into the pointer-array topology (R190, R192, R199..R203). -/
def Obligations.PointerTransposes : Prop :=
  TransposesByPointer .trp1 1 ∧ TransposesByPointer .trp8 8 ∧ TransposesByPointer .trp16 16 ∧
    TransposesByPointer .trp32 32 ∧ TransposesByPointer .trpn 1

/-- EXP128N and every transpose with N = 0 complete and change nothing, whatever their other operands (R282). -/
def Obligations.EmptyTransformsDoNothing : Prop :=
  ∀ i ∈ [Instr.exp128n, .trc1, .trc8, .trc16, .trc32, .trcn, .trp1, .trp8, .trp16, .trp32, .trpn], NothingToDo i

/-- The checks of R193 and their order, contiguous topology. -/
def Obligations.ContiguousFaultOrder : Prop :=
  ∀ (s : State) (x : Snapshot), x = s.latched → x.arg 3 ≠ 0 →
    ∀ ig ∈ [(Instr.trc1, 1), (.trc8, 8), (.trc16, 16), (.trc32, 32), (.trcn, 1)],
      ContiguousChecks ig.1 ig.2 s (x.arg 0) (x.arg 1) (x.arg 2) (x.arg 3)

/-- The checks of R193 and their order, pointer-array topology. -/
def Obligations.PointerFaultOrder : Prop :=
  ∀ (s : State) (x : Snapshot), x = s.latched → x.arg 3 ≠ 0 →
    ∀ ig ∈ [(Instr.trp1, 1), (.trp8, 8), (.trp16, 16), (.trp32, 32), (.trpn, 1)],
      PointerChecks ig.1 ig.2 s (fun c => memRead x.mem (x.arg 0 + 8 * c) 8) (x.arg 0) (x.arg 1) (x.arg 2) (x.arg 3)

/-- R204(a): for an N its granularity divides, every kernel of a topology leaves the memory and STATUS the scalar kernel leaves;
TRCN and TRPN for any N, although they write in blocks of 32, 8 and 1 (R198, R203). -/
def Obligations.KernelsAgree : Prop :=
  ∀ (s : State) (x : Snapshot), x = s.latched → Memory.wf s.mem = true →
    (Disciplined s (trc1Effect s.params x) →
      ∀ ig ∈ [(Instr.trc8, 8), (.trc16, 16), (.trc32, 32), (.trcn, 1)], x.arg 3 % ig.2 = 0 →
        Disciplined s (effectOf ig.1 s.params x) → SameEnd .trc1 ig.1 s) ∧
    (Disciplined s (trp1Effect s.params x) →
      ∀ ig ∈ [(Instr.trp8, 8), (.trp16, 16), (.trp32, 32), (.trpn, 1)], x.arg 3 % ig.2 = 0 →
        Disciplined s (effectOf ig.1 s.params x) → SameEnd .trp1 ig.1 s)

/-- R204(d): a pointer array with P[c] = dst + 2*c*stride and offset 0 makes TRPN leave the memory TRCN leaves. -/
def Obligations.PointerArrayOfRows : Prop :=
  ∀ (s u t v : State) (x y : Snapshot), x = s.latched → y = u.latched → x.mem = y.mem → s.mem = u.mem →
    Memory.wf s.mem = true → y.arg 1 = 0 → x.arg 2 = y.arg 2 → x.arg 3 = y.arg 3 →
    (∀ c, c < 128 → memRead y.mem (y.arg 0 + 8 * c) 8 = x.arg 0 + 2 * (c * x.arg 1)) →
    exec .trcn s = .next t → t.status.err = false → exec .trpn u = .next v → v.status.err = false →
    Disciplined s (trcnEffect s.params x) → Disciplined u (trpnEffect u.params y) → v.mem = t.mem

/-! ## Walker (45_walker) -/

/-- WINIT binds the walker to an area, or faults E_BUS if the area passes the top of the address space (R222). -/
def Obligations.WinitBindsArea : Prop :=
  ∀ (s : State) (x : Snapshot), x = s.latched →
    (x.arg 0 + x.arg 1 ≤ 2 ^ 64 → ∃ t, exec .winit s = .next t ∧ Finished s t false ∧
      t.walker = ⟨.atHeader, x.args[(0 : Fin 8)], x.args[(1 : Fin 8)], 0, 0⟩ ∧ SameMemory s t ∧ t.results = s.results) ∧
    (2 ^ 64 < x.arg 0 + x.arg 1 → FaultsWith .winit s 0x06)

/-- The outcomes of `parse` at an offset inside the area (R221), the type codes and body sizes by 20_memory R78. -/
def Obligations.PayloadParse : Prop :=
  ∀ (p : Params) (m : Memory) (base size o t : Nat), o ≤ size →
    t = memRead m (base + o) p.phSize / 2 ^ p.phTypeLo % 2 ^ p.phTypeW →
    (o = size → parse p m base size o = .areaEnd) ∧
    (o < size → size < o + p.phSize → parse p m base size o = .truncated) ∧
    (o + p.phSize ≤ size → accessOk p (base + o) p.phSize .read = false → parse p m base size o = .busError) ∧
    (o + p.phSize ≤ size → accessOk p (base + o) p.phSize .read = true →
      (t ∉ [p.tcCounter, p.tcTrigger, p.tcTimestamp, p.tcWarning, p.tcChecksum] →
        parse p m base size o = .badType t) ∧
      ∀ sz, (t = p.tcCounter ∧ sz = p.szCounter ∨ t = p.tcTrigger ∧ sz = p.szTrigger ∨
          t = p.tcTimestamp ∧ sz = p.szTimestamp ∨ t = p.tcWarning ∧ sz = p.szWarning ∨
          t = p.tcChecksum ∧ sz = p.szChecksum) →
        (size < o + p.phSize + sz → parse p m base size o = .truncated) ∧
        (o + p.phSize + sz ≤ size → parse p m base size o = .payload
          ⟨base + o, t, base + o + p.phSize, memRead m (base + o) p.phSize / 2 ^ p.phTsLo % 2 ^ 28, sz,
            o + p.phSize + sz⟩))

namespace Sys2Proof.Claims

/-- R0..R6 hold these values. -/
def ResultsAre (t : State) (r0 r1 r2 r3 r4 r5 r6 : Nat) : Prop :=
  t.results[0] = BitVec.ofNat 64 r0 ∧ t.results[1] = BitVec.ofNat 64 r1 ∧ t.results[2] = BitVec.ofNat 64 r2 ∧
    t.results[3] = BitVec.ofNat 64 r3 ∧ t.results[4] = BitVec.ofNat 64 r4 ∧ t.results[5] = BitVec.ofNat 64 r5 ∧
    t.results[6] = BitVec.ofNat 64 r6

/-- WNEXT ends with an outcome other than OK: the results of R225, WSTATE as given, WBASE, WSIZE, WCUR, WID and memory as before. -/
def WnextNull (s : State) (code id ty : Nat) (st : WState) : Prop :=
  ∃ t, exec .wnext s = .next t ∧ Finished s t false ∧ ResultsAre t 0 ty 0 code id 0 0 ∧ t.results[7] = s.results[7] ∧
    t.walker = { s.walker with wstate := st } ∧ SameMemory s t

end Sys2Proof.Claims

/-- WNEXT at a payload returns it and advances (R223). -/
def Obligations.WnextReturnsPayload : Prop :=
  ∀ (s : State) (x : Snapshot) (q : Payload), x = s.latched → (x.walker.wstate = .atHeader ∨ x.walker.wstate = .atPayload) →
    parse s.params x.mem x.walker.wbase.toNat x.walker.wsize.toNat x.walker.wcur.toNat = .payload q →
    Disciplined s (wnextEffect s.params x) →
    ∃ t, exec .wnext s = .next t ∧ Finished s t true ∧
      ResultsAre t q.addr q.type q.body 0 x.walker.wid.toNat q.ts q.size ∧ t.results[7] = s.results[7] ∧
      t.walker = { x.walker with wstate := .atPayload, wcur := BitVec.ofNat 64 q.next, wid := x.walker.wid + 1 } ∧
      SameMemory s t

/-- WNEXT where no payload is returned: at the end, at an unrecognised type, at a truncated payload (END, BADTYPE, TRUNC), where such
an outcome repeats, where no WINIT has been (E_WALK_UNINIT), and where the header is inaccessible (E_BUS) (R223, R225). -/
def Obligations.WnextOtherOutcomes : Prop :=
  ∀ (s : State) (w : Walker) (r : Parse), s.latched.walker = w → s.walker = w →
    Disciplined s (wnextEffect s.params s.latched) →
    r = parse s.params s.latched.mem w.wbase.toNat w.wsize.toNat w.wcur.toNat →
    (w.wstate = .none → FaultsWith .wnext s 0x0B) ∧
    (w.wstate = .ended → WnextNull s 1 w.wid.toNat 0 .ended) ∧
    (w.wstate = .failType → WnextNull s 2 w.wid.toNat 0 .failType) ∧
    (w.wstate = .failTrunc → WnextNull s 3 w.wid.toNat 0 .failTrunc) ∧
    ((w.wstate = .atHeader ∨ w.wstate = .atPayload) →
      (r = .areaEnd → WnextNull s 1 w.wid.toNat 0 .ended) ∧
      (∀ ty, r = .badType ty → WnextNull s 2 w.wid.toNat ty .failType) ∧
      (r = .truncated → WnextNull s 3 w.wid.toNat 0 .failTrunc) ∧
      (r = .busError → FaultsWith .wnext s 0x06))

/-- WGET returns payload j of the area, found from its start, and leaves the walker as it is (R224). -/
def Obligations.WgetReturnsPayload : Prop :=
  ∀ (s : State) (x : Snapshot) (o : Nat) (q : Payload), x = s.latched → x.walker.wstate ≠ .none →
    payloadOffset s.params x.mem x.walker.wbase.toNat x.walker.wsize.toNat (x.arg 0) = some o →
    parse s.params x.mem x.walker.wbase.toNat x.walker.wsize.toNat o = .payload q →
    Disciplined s (wgetEffect s.params x) →
    ∃ t, exec .wget s = .next t ∧ Finished s t true ∧ ResultsAre t q.addr q.type q.body 0 (x.arg 0) q.ts q.size ∧
      t.results[7] = s.results[7] ∧ t.walker = s.walker ∧ SameMemory s t

/-- WGET where payload j is not reached: the re-scan ends at index k ≤ j at the end of the area (RANGE), at an unrecognised type
(BADTYPE) or at a truncated payload (TRUNC), with R4 = k; an inaccessible header is E_BUS; before any WINIT it is E_WALK_UNINIT
(R224, R225). -/
def Obligations.WgetOtherOutcomes : Prop :=
  ∀ (s : State) (x : Snapshot), x = s.latched →
    (x.walker.wstate = .none → FaultsWith .wget s 0x0B) ∧
    ∀ (k o : Nat) (r : Parse), x.walker.wstate ≠ .none → k ≤ x.arg 0 →
      payloadOffset s.params x.mem x.walker.wbase.toNat x.walker.wsize.toNat k = some o →
      r = parse s.params x.mem x.walker.wbase.toNat x.walker.wsize.toNat o →
      Disciplined s (wgetEffect s.params x) →
      (∀ code ty, (r = .areaEnd ∧ code = 4 ∧ ty = 0 ∨ r = .badType ty ∧ code = 2 ∨ r = .truncated ∧ code = 3 ∧ ty = 0) →
        ∃ t, exec .wget s = .next t ∧ Finished s t false ∧ ResultsAre t 0 ty 0 code k 0 0 ∧
          t.results[7] = s.results[7] ∧ t.walker = s.walker ∧ SameMemory s t) ∧
      (r = .busError → FaultsWith .wget s 0x06)

/-- R226: on an area whose memory does not change, with the walker at payload WID, a WNEXT that returns a payload leaves the walker
at the next one, strictly further on, and WGET of that word_id returns the same registers. -/
def Obligations.WgetAgreesWithWnext : Prop :=
  ∀ (s u t v : State) (x y : Snapshot), x = s.latched → y = u.latched → s.params = u.params → x.mem = y.mem →
    x.walker.wbase = y.walker.wbase → x.walker.wsize = y.walker.wsize → y.walker.wstate ≠ .none →
    y.arg 0 = x.walker.wid.toNat →
    payloadOffset s.params x.mem x.walker.wbase.toNat x.walker.wsize.toNat x.walker.wid.toNat =
      some x.walker.wcur.toNat →
    exec .wnext s = .next t → t.status.err = false → t.status.cond = true → exec .wget u = .next v →
    Disciplined s (wnextEffect s.params x) → Disciplined u (wgetEffect u.params y) →
    (∀ i : Fin 8, i.val ≤ 6 → v.results[i] = t.results[i]) ∧ v.status.cond = true ∧
      payloadOffset s.params x.mem x.walker.wbase.toNat x.walker.wsize.toNat t.walker.wid.toNat =
        some t.walker.wcur.toNat ∧
      x.walker.wcur.toNat < t.walker.wcur.toNat

/-! ## Scan and Toc (46_container) -/

/-- SCAN of a stream that holds certain records and then either no length or a header of unrecognised format: where each kind of
record was found, how many were passed, whether a kind occurred twice, where the scan ended and with what length left (R250). -/
def Obligations.ScanFindsRecords : Prop :=
  ∀ (s : State) (x : Snapshot) (recs : List (Nat × Nat)) (L here left : Int) (stop : Option Nat), x = s.latched →
    L = x.args[(1 : Fin 8)].toInt → (0 < L → x.arg 0 % 8 = 0) → PassesRecords s.params x.mem (x.arg 0) L recs →
    here = x.arg 0 + 8 * recordWords recs → left = L - recordWords recs →
    (left ≤ 0 ∧ stop = none ∨
      0 < left ∧ accessOk s.params here.toNat 8 .read = true ∧ 2 < memRead x.mem here.toNat 8 % 16 ∧
        stop = some (memRead x.mem here.toNat 8 % 16)) →
    Disciplined s (scanEffect s.params x) →
    ∃ t, exec .scan s = .next t ∧ Finished s t stop.isNone ∧
      (∀ (tocs rngs pkts : List Nat), tocs = recordsOfType s.params.tToc.toNat (x.arg 0) recs →
        rngs = recordsOfType s.params.tRanges.toNat (x.arg 0) recs →
        pkts = recordsOfType s.params.tPacket.toNat (x.arg 0) recs →
        t.results[0] = BitVec.ofNat 64 (reported s.params.scanDup tocs) ∧
        t.results[1] = BitVec.ofNat 64 (reported s.params.scanDup rngs) ∧
        t.results[2] = BitVec.ofNat 64 (reported s.params.scanDup pkts) ∧
        t.results[3] = BitVec.ofNat 64
          (recs.length % 2 ^ 32 + 2 ^ 32 * min 1 tocs.length + 2 ^ 33 * min 1 rngs.length + 2 ^ 34 * min 1 pkts.length +
            (if 2 ≤ tocs.length ∨ 2 ≤ rngs.length ∨ 2 ≤ pkts.length then 2 ^ 35 else 0) +
            match stop with
            | none => 0
            | some f => 2 ^ 36 + 2 ^ 40 * f)) ∧
      t.results[4] = BitVec.ofInt 64 here ∧ t.results[5] = BitVec.ofInt 64 left ∧
      SameResultsOutside [0, 1, 2, 3, 4, 5] s t ∧ SameMemory s t ∧ t.walker = s.walker

/-- SCAN faults: E_ALIGN for a misaligned base with length left; after the records passed, E_BUS at an inaccessible header and
E_ZERO_LEN at a recognised header of length 0 (R250). -/
def Obligations.ScanFaults : Prop :=
  ∀ (s : State) (x : Snapshot) (L : Int), x = s.latched → L = x.args[(1 : Fin 8)].toInt → 0 < L →
    (x.arg 0 % 8 ≠ 0 → FaultsWith .scan s 0x03) ∧
    ∀ (recs : List (Nat × Nat)) (here : Nat), x.arg 0 % 8 = 0 → PassesRecords s.params x.mem (x.arg 0) L recs →
      (recordWords recs : Int) < L → here = x.arg 0 + 8 * recordWords recs →
      (accessOk s.params here 8 .read = false → FaultsWith .scan s 0x06) ∧
      (accessOk s.params here 8 .read = true → memRead x.mem here 8 % 16 ≤ 2 →
        headerLength s.params (memRead x.mem here 8 % 16) (memRead x.mem here 8) = 0 → FaultsWith .scan s 0x0A)

/-- R251: every header SCAN reads is a whole number of words after the stream base and before the end of the stream. -/
def Obligations.ScanReadsInsideStream : Prop :=
  ∀ (q : Params) (x : Snapshot), ∀ r ∈ (scanEffect q x).reads,
    r.len = 8 ∧ x.arg 0 ≤ r.base ∧ (r.base - x.arg 0) % 8 = 0 ∧
      (r.base : Int) < x.arg 0 + 8 * x.args[(1 : Fin 8)].toInt

/-- TOCDSC: the fields of descriptor i, whether it is WibFrame, and where its packet starts; its faults in order (R252, R253). -/
def Obligations.TocdscReadsDescriptor : Prop :=
  ∀ (s : State) (x : Snapshot) (a d : Nat), x = s.latched → a = x.arg 0 + 4 * x.arg 1 → d = memRead x.mem a 4 →
    (x.arg 2 < x.arg 1 → FaultsWith .tocdsc s 0x08) ∧
    (x.arg 1 ≤ x.arg 2 → x.arg 0 % 4 ≠ 0 → FaultsWith .tocdsc s 0x03) ∧
    (x.arg 1 ≤ x.arg 2 → x.arg 0 % 4 = 0 → (2 ^ 64 < a + 4 ∨ memOk s.params a 4 .read = false) →
      FaultsWith .tocdsc s 0x06) ∧
    (x.arg 1 ≤ x.arg 2 → x.arg 0 % 4 = 0 → a + 4 ≤ 2 ^ 64 → memOk s.params a 4 .read = true →
      Disciplined s (tocdscEffect s.params x) →
      ∃ t, exec .tocdsc s = .next t ∧ Finished s t (decide (d / 16 % 16 = 1)) ∧
        t.results[0] = BitVec.ofNat 64 (d % 16) ∧ t.results[1] = BitVec.ofNat 64 (d / 16 % 16) ∧
        t.results[2] = BitVec.ofNat 64 (d / 256) ∧ t.results[3] = (if d / 16 % 16 = 1 then 1 else 0) ∧
        t.results[4] = BitVec.ofNat 64 (x.arg 3 + 8 * (d / 256)) ∧
        SameResultsOutside [0, 1, 2, 3, 4] s t ∧ SameMemory s t ∧ t.walker = s.walker)

/-- TOCLEN: the length of packet i in words, its whole frames and the rest, its type and where it starts; its faults in order (R252,
R254). -/
def Obligations.ToclenMeasuresPacket : Prop :=
  ∀ (s : State) (x : Snapshot) (a d0 d1 : Nat), x = s.latched → a = x.arg 0 + 4 * x.arg 1 → d0 = memRead x.mem a 4 →
    d1 = memRead x.mem (a + 4) 4 →
    (x.arg 2 ≤ x.arg 1 → FaultsWith .toclen s 0x08) ∧
    (x.arg 1 < x.arg 2 → x.arg 0 % 4 ≠ 0 → FaultsWith .toclen s 0x03) ∧
    (x.arg 1 < x.arg 2 → x.arg 0 % 4 = 0 → (2 ^ 64 < a + 8 ∨ memOk s.params a 8 .read = false) →
      FaultsWith .toclen s 0x06) ∧
    (x.arg 1 < x.arg 2 → x.arg 0 % 4 = 0 → a + 8 ≤ 2 ^ 64 → memOk s.params a 8 .read = true →
      (d1 / 256 < d0 / 256 → FaultsWith .toclen s 0x09) ∧
      ∀ len, d1 / 256 = d0 / 256 + len → Disciplined s (toclenEffect s.params x) →
        ∃ t, exec .toclen s = .next t ∧ Finished s t (decide (d0 / 16 % 16 = 1 ∧ len % 30 = 0)) ∧
          t.results[0] = BitVec.ofNat 64 len ∧
          t.results[1] = (if d0 / 16 % 16 = 1 then BitVec.ofNat 64 (len / 30) else 0) ∧
          t.results[2] = BitVec.ofNat 64 (len % 30) ∧ t.results[3] = BitVec.ofNat 64 (d0 / 16 % 16) ∧
          t.results[4] = BitVec.ofNat 64 (x.arg 3 + 8 * (d0 / 256)) ∧
          SameResultsOutside [0, 1, 2, 3, 4] s t ∧ SameMemory s t ∧ t.walker = s.walker)

/-- R255: the length TOCLEN returns for i is the difference of the offsets TOCDSC returns for i + 1 and i, and for a WibFrame packet
its frame count is that length divided by 30. -/
def Obligations.TocLengthLaw : Prop :=
  ∀ (s u v t t0 t1 : State) (x y z : Snapshot), x = s.latched → y = u.latched → z = v.latched → x.mem = y.mem →
    x.mem = z.mem → x.arg 0 = y.arg 0 → x.arg 0 = z.arg 0 → y.arg 1 = x.arg 1 → z.arg 1 = x.arg 1 + 1 →
    Disciplined s (toclenEffect s.params x) → Disciplined u (tocdscEffect u.params y) →
    Disciplined v (tocdscEffect v.params z) →
    exec .toclen s = .next t → t.status.err = false → exec .tocdsc u = .next t0 → t0.status.err = false →
    exec .tocdsc v = .next t1 → t1.status.err = false →
    t.results[0] = t1.results[2] - t0.results[2] ∧
      (t0.results[3] = 1 → t.results[1].toNat = t.results[0].toNat / 30)
end

