-- ==== Sys2Proof/Laws/Memory.lean ====
section
/-! SUPPORT. Memory: what a read sees after each operation, and that every operation keeps the canonical form. -/

namespace Sys2Proof.Machine

/-! ## Reads after writes -/

@[simp] theorem read_nil (a : Nat) : Memory.read [] a = unlistedByte := rfl

@[simp] theorem read_cons (k : Nat) (v : Byte) (rest : Memory) (a : Nat) :
    Memory.read ((k, v) :: rest) a = if a = k then v else Memory.read rest a := by
  by_cases h : a = k <;> simp [Memory.read, cond_eq_ite, h]

@[simp] theorem drop_nil (a : Nat) : Memory.drop [] a = [] := rfl

@[simp] theorem drop_cons (k : Nat) (v : Byte) (rest : Memory) (a : Nat) :
    Memory.drop ((k, v) :: rest) a = if a = k then Memory.drop rest a else (k, v) :: Memory.drop rest a := by
  by_cases h : a = k <;> simp [Memory.drop, cond_eq_ite, h]

@[simp] theorem place_nil (a : Nat) (b : Byte) : Memory.place a b [] = [(a, b)] := rfl

@[simp] theorem place_cons (a : Nat) (b : Byte) (k : Nat) (v : Byte) (rest : Memory) :
    Memory.place a b ((k, v) :: rest) =
      if a < k then (a, b) :: (k, v) :: rest else (k, v) :: Memory.place a b rest := by
  by_cases h : a < k <;> simp [Memory.place, cond_eq_ite, h]

theorem read_drop_same (m : Memory) (a : Nat) : Memory.read (Memory.drop m a) a = unlistedByte := by
  induction m with
  | nil => rfl
  | cons c rest ih =>
    obtain ⟨k, v⟩ := c
    by_cases h : a = k <;> simp [h] <;> simpa [h] using ih

theorem read_drop_ne (m : Memory) {a b : Nat} (h : b ≠ a) : Memory.read (Memory.drop m a) b = Memory.read m b := by
  induction m with
  | nil => rfl
  | cons c rest ih =>
    obtain ⟨k, v⟩ := c
    by_cases hk : a = k
    · have hb : b ≠ k := hk ▸ h
      rw [drop_cons, if_pos hk, ih, read_cons, if_neg hb]
    · rw [drop_cons, if_neg hk, read_cons, read_cons, ih]

theorem read_place_ne (m : Memory) {a b : Nat} (v : Byte) (h : b ≠ a) :
    Memory.read (Memory.place a v m) b = Memory.read m b := by
  induction m with
  | nil => simp [h]
  | cons c rest ih =>
    obtain ⟨k, w⟩ := c
    by_cases ha : a < k <;> simp [ha, h, ih]

theorem read_place_same (m : Memory) (a : Nat) (v : Byte) (h : ∀ c ∈ m, c.1 ≠ a) :
    Memory.read (Memory.place a v m) a = v := by
  induction m with
  | nil => simp
  | cons c rest ih =>
    obtain ⟨k, w⟩ := c
    have hk : a ≠ k := fun e => h (k, w) (by simp) e.symm
    by_cases ha : a < k
    · simp [ha]
    · simpa [ha, hk] using ih fun c hc => h c (by simp [hc])

theorem mem_drop {m : Memory} {a : Nat} {c : Host.Cell} : c ∈ Memory.drop m a ↔ c ∈ m ∧ c.1 ≠ a := by
  induction m with
  | nil => simp
  | cons d rest ih =>
    obtain ⟨k, v⟩ := d
    rw [drop_cons]
    split
    · next h =>
      rw [ih, List.mem_cons]
      constructor
      · exact fun hc => ⟨.inr hc.1, hc.2⟩
      · rintro ⟨rfl | hc, hn⟩
        · exact absurd h.symm hn
        · exact ⟨hc, hn⟩
    · next h =>
      rw [List.mem_cons, List.mem_cons, ih]
      constructor
      · rintro (rfl | hc)
        · exact ⟨.inl rfl, fun e => h e.symm⟩
        · exact ⟨.inr hc.1, hc.2⟩
      · rintro ⟨rfl | hc, hn⟩
        · exact .inl rfl
        · exact .inr ⟨hc, hn⟩

theorem drop_avoids (m : Memory) (a : Nat) : ∀ c ∈ Memory.drop m a, c.1 ≠ a := fun _ hc => (mem_drop.mp hc).2

/-- A read after a write to the same address gives the value written. -/
@[simp] theorem read_write_same (m : Memory) (a : Nat) (v : Byte) : Memory.read (Memory.write m a v) a = v := by
  unfold Memory.write
  split
  · next h => rw [read_drop_same, h]
  · exact read_place_same _ _ _ (drop_avoids m a)

/-- A write leaves every other address alone. -/
theorem read_write_ne (m : Memory) {a b : Nat} (v : Byte) (h : b ≠ a) :
    Memory.read (Memory.write m a v) b = Memory.read m b := by
  unfold Memory.write
  split
  · exact read_drop_ne m h
  · rw [read_place_ne _ _ h, read_drop_ne m h]

theorem read_memWrite_out (m : Memory) (a n v b : Nat) (h : b < a ∨ a + n ≤ b) :
    Memory.read (memWrite m a n v) b = Memory.read m b := by
  induction n generalizing m a v with
  | zero => rfl
  | succ n ih =>
    rw [memWrite, ih _ _ _ (by omega), read_write_ne _ _ (by omega)]

theorem read_storeBytes_out (m : Memory) (a : Nat) (bs : List Byte) (b : Nat) (h : b < a ∨ a + bs.length ≤ b) :
    Memory.read (Memory.storeBytes m a bs) b = Memory.read m b := by
  induction bs generalizing m a with
  | nil => rfl
  | cons c rest ih =>
    simp only [List.length_cons] at h
    rw [Memory.storeBytes, ih _ _ (by omega), read_write_ne _ _ (by omega)]

/-- A store puts its bytes in place. -/
theorem read_storeBytes_in (m : Memory) (a : Nat) (bs : List Byte) (k : Nat) (b : Byte) (h : bs[k]? = some b) :
    Memory.read (Memory.storeBytes m a bs) (a + k) = b := by
  induction bs generalizing m a k with
  | nil => simp at h
  | cons c rest ih =>
    rw [Memory.storeBytes]
    cases k with
    | zero =>
      rw [read_storeBytes_out _ _ _ _ (.inl (by omega)), Nat.add_zero, read_write_same]
      simpa using h
    | succ k => simpa [Nat.add_assoc, Nat.add_comm 1 k] using ih (Memory.write m a c) (a + 1) k (by simpa using h)

/-- The cells at some addresses are those addresses with their bytes. -/
theorem mem_cellsAt {m : Memory} {l : List Nat} {c : Host.Cell} :
    c ∈ Memory.cellsAt m l ↔ c.1 ∈ l ∧ c.2 = Memory.read m c.1 := by
  obtain ⟨a, v⟩ := c
  simp only [Memory.cellsAt, List.mem_map, Prod.mk.injEq]
  exact ⟨fun ⟨b, hb, h1, h2⟩ => h1 ▸ ⟨hb, h2.symm⟩, fun ⟨h1, h2⟩ => ⟨a, h1, rfl, h2.symm⟩⟩

/-- A memory read depends only on the bytes of its range. -/
theorem memRead_congr {m m' : Memory} {a n : Nat}
    (h : ∀ b, a ≤ b → b < a + n → Memory.read m b = Memory.read m' b) : memRead m a n = memRead m' a n := by
  induction n generalizing a with
  | zero => rfl
  | succ n ih =>
    rw [memRead, memRead, h a (by omega) (by omega), ih fun b h1 h2 => h b (by omega) (by omega)]

theorem memRead_lt (m : Memory) (a n : Nat) : memRead m a n < 256 ^ n := by
  induction n generalizing a with
  | zero => simp [memRead]
  | succ n ih =>
    have h1 := ih (a + 1)
    have h2 := (Memory.read m a).isLt
    rw [memRead, Nat.pow_succ]
    omega

/-- What a multi-byte read gives after a write of the same width to the same place (20_memory R61). -/
theorem memRead_memWrite_same (m : Memory) (a n v : Nat) : memRead (memWrite m a n v) a n = v % 256 ^ n := by
  induction n generalizing m a v with
  | zero => simp [memRead, Nat.mod_one]
  | succ n ih =>
    have hp : (256 : Nat) ^ (n + 1) = 256 * 256 ^ n := by rw [Nat.pow_succ, Nat.mul_comm]
    rw [memRead, memWrite, ih, read_memWrite_out _ _ _ _ _ (by omega), read_write_same, BitVec.toNat_ofNat, hp,
      Nat.mod_mul]

theorem memRead_memWrite_out (m : Memory) (a n v b k : Nat) (h : b + k ≤ a ∨ a + n ≤ b) :
    memRead (memWrite m a n v) b k = memRead m b k :=
  memRead_congr fun c h1 h2 => read_memWrite_out m a n v c (by omega)

theorem read_applyStores_out (m : Memory) (l : List (Nat × Half)) (b : Nat)
    (h : ∀ e ∈ l, b ≠ e.1 ∧ b ≠ e.1 + 1) : Memory.read (applyStores m l) b = Memory.read m b := by
  induction l generalizing m with
  | nil => rfl
  | cons e rest ih =>
    obtain ⟨a, v⟩ := e
    have ha := h (a, v) (by simp)
    rw [applyStores, ih _ fun e he => h e (by simp [he]), read_memWrite_out]
    have h1 : b ≠ a := ha.1
    have h2 : b ≠ a + 1 := ha.2
    omega

theorem read_scramble_out (m : Memory) (n : Nat) (l : List Nat) (b : Nat) (h : b ∉ l) :
    Memory.read (scramble m n l) b = Memory.read m b := by
  induction l generalizing m n with
  | nil => rfl
  | cons a rest ih =>
    simp only [List.mem_cons, not_or] at h
    rw [scramble, ih _ _ h.2, read_write_ne _ _ h.1]

/-! ## The canonical form -/

/-- The canonical form as a statement about cells. -/
theorem wf_cons {k : Nat} {v : Byte} {rest : Memory} :
    Memory.wf ((k, v) :: rest) = true ↔
      k < 2 ^ 64 ∧ v ≠ unlistedByte ∧ (∀ c ∈ rest, k < c.1) ∧ Memory.wf rest = true := by
  simp only [Memory.wf, Bool.and_eq_true, decide_eq_true_eq, List.all_eq_true, and_assoc]

theorem drop_sub {m : Memory} {a : Nat} {c : Host.Cell} (h : c ∈ Memory.drop m a) : c ∈ m :=
  (mem_drop.mp h).1

theorem wf_drop {m : Memory} (a : Nat) (h : Memory.wf m = true) : Memory.wf (Memory.drop m a) = true := by
  induction m with
  | nil => rfl
  | cons c rest ih =>
    obtain ⟨k, v⟩ := c
    obtain ⟨h1, h2, h3, h4⟩ := wf_cons.mp h
    rw [drop_cons]
    split
    · exact ih h4
    · exact wf_cons.mpr ⟨h1, h2, fun c hc => h3 c (drop_sub hc), ih h4⟩

theorem mem_place {m : Memory} {a : Nat} {v : Byte} {c : Host.Cell} (h : c ∈ Memory.place a v m) :
    c = (a, v) ∨ c ∈ m := by
  induction m with
  | nil => simpa using h
  | cons d rest ih =>
    obtain ⟨k, w⟩ := d
    by_cases ha : a < k
    · simpa [ha] using h
    · simp only [place_cons, ha, if_false, List.mem_cons] at h
      rcases h with h | h
      · exact .inr (by simp [h])
      · rcases ih h with h | h
        · exact .inl h
        · exact .inr (by simp [h])

theorem wf_place {m : Memory} {a : Nat} {v : Byte} (ha : a < 2 ^ 64) (hv : v ≠ unlistedByte)
    (hm : ∀ c ∈ m, c.1 ≠ a) (h : Memory.wf m = true) : Memory.wf (Memory.place a v m) = true := by
  induction m with
  | nil => exact wf_cons.mpr ⟨ha, hv, by simp, rfl⟩
  | cons d rest ih =>
    obtain ⟨k, w⟩ := d
    obtain ⟨h1, h2, h3, h4⟩ := wf_cons.mp h
    have hk : k ≠ a := hm (k, w) (by simp)
    by_cases hlt : a < k
    · rw [place_cons, if_pos hlt]
      refine wf_cons.mpr ⟨ha, hv, fun c hc => ?_, h⟩
      rcases List.mem_cons.mp hc with rfl | hc
      · exact hlt
      · exact Nat.lt_trans hlt (h3 c hc)
    · rw [place_cons, if_neg hlt]
      refine wf_cons.mpr ⟨h1, h2, fun c hc => ?_, ih (fun c hc => hm c (by simp [hc])) h4⟩
      rcases mem_place hc with rfl | hc
      · have : k ≠ a := hk
        show k < a
        omega
      · exact h3 c hc

/-- A write inside the address space keeps the canonical form. -/
theorem wf_write {m : Memory} {a : Nat} (v : Byte) (ha : a < 2 ^ 64) (h : Memory.wf m = true) :
    Memory.wf (Memory.write m a v) = true := by
  unfold Memory.write
  split
  · exact wf_drop a h
  · next hv => exact wf_place ha hv (drop_avoids m a) (wf_drop a h)

theorem wf_memWrite {m : Memory} {a n v : Nat} (ha : a + n ≤ 2 ^ 64) (h : Memory.wf m = true) :
    Memory.wf (memWrite m a n v) = true := by
  induction n generalizing m a v with
  | zero => exact h
  | succ n ih => exact ih (by omega) (wf_write _ (by omega) h)

theorem wf_storeBytes {m : Memory} {a : Nat} {bs : List Byte} (ha : a + bs.length ≤ 2 ^ 64)
    (h : Memory.wf m = true) : Memory.wf (Memory.storeBytes m a bs) = true := by
  induction bs generalizing m a with
  | nil => exact h
  | cons b rest ih =>
    simp only [List.length_cons] at ha
    exact ih (by omega) (wf_write _ (by omega) h)

theorem wf_applyStores {m : Memory} {l : List (Nat × Half)} (hl : ∀ e ∈ l, e.1 + 2 ≤ 2 ^ 64)
    (h : Memory.wf m = true) : Memory.wf (applyStores m l) = true := by
  induction l generalizing m with
  | nil => exact h
  | cons e rest ih =>
    exact ih (fun e he => hl e (by simp [he])) (wf_memWrite (hl e (by simp)) h)

theorem wf_scramble {m : Memory} {n : Nat} {l : List Nat} (hl : ∀ a ∈ l, a < 2 ^ 64)
    (h : Memory.wf m = true) : Memory.wf (scramble m n l) = true := by
  induction l generalizing m n with
  | nil => exact h
  | cons a rest ih =>
    exact ih (fun b hb => hl b (by simp [hb])) (wf_write _ (hl a (by simp)) h)

/-- Nothing listed is in canonical form. -/
theorem wf_nil : Memory.wf [] = true := rfl

/-- Two memories in canonical form that read alike are the same list. -/
theorem wf_ext {m m' : Memory} (h : Memory.wf m = true) (h' : Memory.wf m' = true)
    (heq : ∀ a, Memory.read m a = Memory.read m' a) : m = m' := by
  have low : ∀ {n : Memory} {k : Nat}, (∀ c ∈ n, k < c.1) → Memory.read n k = unlistedByte := by
    intro n k hn
    induction n with
    | nil => rfl
    | cons c rest ih =>
      obtain ⟨j, w⟩ := c
      have : k ≠ j := Nat.ne_of_lt (hn (j, w) (by simp))
      rw [read_cons, if_neg this]
      exact ih fun c hc => hn c (by simp [hc])
  induction m generalizing m' with
  | nil =>
    cases m' with
    | nil => rfl
    | cons c rest =>
      obtain ⟨k, v⟩ := c
      obtain ⟨-, h2, -, -⟩ := wf_cons.mp h'
      have := heq k
      simp only [read_cons, if_true] at this
      exact absurd this.symm h2
  | cons c rest ih =>
    obtain ⟨k, v⟩ := c
    obtain ⟨-, h2, h3, h4⟩ := wf_cons.mp h
    cases m' with
    | nil =>
      have := heq k
      simp only [read_cons, if_true] at this
      exact absurd this h2
    | cons c' rest' =>
      obtain ⟨k', v'⟩ := c'
      obtain ⟨-, h2', h3', h4'⟩ := wf_cons.mp h'
      have hk : k = k' := by
        rcases Nat.lt_trichotomy k k' with hlt | he | hlt
        · have := heq k
          rw [low (n := (k', v') :: rest') (k := k)] at this
          · simp only [read_cons, if_true] at this
            exact absurd this h2
          · intro c hc
            rcases List.mem_cons.mp hc with rfl | hc
            · exact hlt
            · exact Nat.lt_trans hlt (h3' c hc)
        · exact he
        · have := heq k'
          rw [low (n := (k, v) :: rest) (k := k')] at this
          · simp only [read_cons, if_true] at this
            exact absurd this.symm h2'
          · intro c hc
            rcases List.mem_cons.mp hc with rfl | hc
            · exact hlt
            · exact Nat.lt_trans hlt (h3 c hc)
      subst hk
      have hv : v = v' := by simpa using heq k
      subst hv
      congr 1
      refine ih h4 h4' fun a => ?_
      by_cases ha : a = k
      · subst ha
        rw [low h3, low h3']
      · simpa [ha] using heq a

end Sys2Proof.Machine
end

