-- ==== Sys2Proof/Laws/State.lean ====
section
/-! SUPPORT. The small lemmas of State: one per field per update, true by definition, so that no proof unfolds an update. -/

namespace Sys2Proof.Machine

/-! ## STATUS updates (Machine/Flags.lean) -/

@[simp] theorem accepted_busy (st : Status) : st.accepted.busy = true := rfl
@[simp] theorem accepted_err (st : Status) : st.accepted.err = false := rfl
@[simp] theorem accepted_cond (st : Status) : st.accepted.cond = false := rfl
@[simp] theorem accepted_ovr (st : Status) : st.accepted.ovr = st.ovr := rfl
@[simp] theorem accepted_fseen (st : Status) : st.accepted.fseen = st.fseen := rfl
@[simp] theorem accepted_ecode (st : Status) : st.accepted.ecode = 0 := rfl
@[simp] theorem finished_busy (st : Status) (c : Bool) : (st.finished c).busy = false := rfl
@[simp] theorem finished_err (st : Status) (c : Bool) : (st.finished c).err = false := rfl
@[simp] theorem finished_cond (st : Status) (c : Bool) : (st.finished c).cond = c := rfl
@[simp] theorem finished_ovr (st : Status) (c : Bool) : (st.finished c).ovr = st.ovr := rfl
@[simp] theorem finished_fseen (st : Status) (c : Bool) : (st.finished c).fseen = st.fseen := rfl
@[simp] theorem finished_ecode (st : Status) (c : Bool) : (st.finished c).ecode = 0 := rfl
@[simp] theorem faulted_busy (st : Status) (e : FaultCode) : (st.faulted e).busy = false := rfl
@[simp] theorem faulted_err (st : Status) (e : FaultCode) : (st.faulted e).err = true := rfl
@[simp] theorem faulted_cond (st : Status) (e : FaultCode) : (st.faulted e).cond = false := rfl
@[simp] theorem faulted_ovr (st : Status) (e : FaultCode) : (st.faulted e).ovr = st.ovr := rfl
@[simp] theorem faulted_fseen (st : Status) (e : FaultCode) : (st.faulted e).fseen = true := rfl
@[simp] theorem faulted_ecode (st : Status) (e : FaultCode) : (st.faulted e).ecode = e.code := rfl
@[simp] theorem overrun_busy (st : Status) : st.overrun.busy = st.busy := rfl
@[simp] theorem overrun_err (st : Status) : st.overrun.err = st.err := rfl
@[simp] theorem overrun_cond (st : Status) : st.overrun.cond = st.cond := rfl
@[simp] theorem overrun_ovr (st : Status) : st.overrun.ovr = true := rfl
@[simp] theorem overrun_fseen (st : Status) : st.overrun.fseen = st.fseen := rfl
@[simp] theorem overrun_ecode (st : Status) : st.overrun.ecode = st.ecode := rfl

/-! ## Completion (Machine/Ops.lean) -/

section Complete
variable (s : State) (d : List (Fin 8)) (e : Effect)

@[simp] theorem complete_args : (s.complete d e).args = s.args := rfl
@[simp] theorem complete_results : (s.complete d e).results = s.resultsAfter d e := rfl
@[simp] theorem complete_cmd : (s.complete d e).cmd = s.cmd := rfl
@[simp] theorem complete_status : (s.complete d e).status = s.statusAfter e := rfl
@[simp] theorem complete_walker : (s.complete d e).walker = s.walkerAfter e := rfl
@[simp] theorem complete_pend : (s.complete d e).pend = none := rfl
@[simp] theorem complete_mem : (s.complete d e).mem = s.memAfter e := rfl
@[simp] theorem complete_params : (s.complete d e).params = s.params := rfl
@[simp] theorem complete_inbox : (s.complete d e).inbox = s.inbox := rfl
@[simp] theorem complete_replies : (s.complete d e).replies = s.replies := rfl
@[simp] theorem complete_observed : (s.complete d e).observed = s.observed := rfl
@[simp] theorem complete_unseen : (s.complete d e).unseen = s.unseen ++ Memory.cellsAt s.mem e.written := rfl
@[simp] theorem complete_draws : (s.complete d e).draws = s.draws + 10 := rfl

end Complete

/-! ## Accept (Machine/Ops.lean) -/

section Accept
variable (s : State) (v : Word) (n : Nat)

@[simp] theorem accept_args : (s.accept v n).args = s.args := rfl
@[simp] theorem accept_results : (s.accept v n).results = s.results := rfl
@[simp] theorem accept_cmd : (s.accept v n).cmd = v := rfl
@[simp] theorem accept_status : (s.accept v n).status = s.status.accepted := rfl
@[simp] theorem accept_walker : (s.accept v n).walker = s.walker := rfl
@[simp] theorem accept_pend :
    (s.accept v n).pend = some ⟨v, ⟨s.args, s.walker, s.mem⟩, n, s.draws, [], []⟩ := rfl
@[simp] theorem accept_mem : (s.accept v n).mem = s.mem := rfl
@[simp] theorem accept_params : (s.accept v n).params = s.params := rfl
@[simp] theorem accept_inbox : (s.accept v n).inbox = s.inbox := rfl
@[simp] theorem accept_replies : (s.accept v n).replies = s.replies := rfl
@[simp] theorem accept_observed : (s.accept v n).observed = false := rfl
@[simp] theorem accept_unseen : (s.accept v n).unseen = s.unseen := rfl
@[simp] theorem accept_draws : (s.accept v n).draws = s.draws := rfl

end Accept

/-! ## Reset (Machine/Ops.lean) -/

section Reset
variable (s : State) (w : List Nat)

@[simp] theorem resetNow_args : (s.resetNow w).args = Vector.replicate 8 0 := rfl
@[simp] theorem resetNow_results : (s.resetNow w).results = Vector.replicate 8 0 := rfl
@[simp] theorem resetNow_cmd : (s.resetNow w).cmd = 0 := rfl
@[simp] theorem resetNow_status : (s.resetNow w).status = statusReset := rfl
@[simp] theorem resetNow_walker : (s.resetNow w).walker = walkerReset := rfl
@[simp] theorem resetNow_pend : (s.resetNow w).pend = none := rfl
@[simp] theorem resetNow_mem : (s.resetNow w).mem = scramble s.mem s.draws w := rfl
@[simp] theorem resetNow_params : (s.resetNow w).params = s.params := rfl
@[simp] theorem resetNow_inbox : (s.resetNow w).inbox = s.inbox := rfl
@[simp] theorem resetNow_replies : (s.resetNow w).replies = s.replies := rfl
@[simp] theorem resetNow_observed : (s.resetNow w).observed = true := rfl
@[simp] theorem resetNow_unseen : (s.resetNow w).unseen = s.unseen ++ Memory.cellsAt s.mem w := rfl
@[simp] theorem resetNow_draws : (s.resetNow w).draws = s.draws + 1 := rfl

end Reset

/-! ## The host's accesses (Machine/Bus.lean) -/

section Load
variable (s : State) (r : HostReply) (a n : Nat) (bytes : List Byte)

@[simp] theorem answer_args : (s.answer r).args = s.args := rfl
@[simp] theorem answer_results : (s.answer r).results = s.results := rfl
@[simp] theorem answer_cmd : (s.answer r).cmd = s.cmd := rfl
@[simp] theorem answer_status : (s.answer r).status = s.status := rfl
@[simp] theorem answer_walker : (s.answer r).walker = s.walker := rfl
@[simp] theorem answer_pend : (s.answer r).pend = s.pend := rfl
@[simp] theorem answer_mem : (s.answer r).mem = s.mem := rfl
@[simp] theorem answer_params : (s.answer r).params = s.params := rfl
@[simp] theorem answer_inbox : (s.answer r).inbox = s.inbox := rfl
@[simp] theorem answer_replies : (s.answer r).replies = r :: s.replies := rfl
@[simp] theorem answer_observed : (s.answer r).observed = s.observed := rfl
@[simp] theorem answer_unseen : (s.answer r).unseen = s.unseen := rfl
@[simp] theorem answer_draws : (s.answer r).draws = s.draws := rfl
@[simp] theorem answerFree_args : s.answerFree.args = s.args := rfl
@[simp] theorem answerFree_results : s.answerFree.results = s.results := rfl
@[simp] theorem answerFree_cmd : s.answerFree.cmd = s.cmd := rfl
@[simp] theorem answerFree_status : s.answerFree.status = s.status := rfl
@[simp] theorem answerFree_walker : s.answerFree.walker = s.walker := rfl
@[simp] theorem answerFree_pend : s.answerFree.pend = s.pend := rfl
@[simp] theorem answerFree_mem : s.answerFree.mem = s.mem := rfl
@[simp] theorem answerFree_params : s.answerFree.params = s.params := rfl
@[simp] theorem answerFree_inbox : s.answerFree.inbox = s.inbox := rfl
@[simp] theorem answerFree_observed : s.answerFree.observed = s.observed := rfl
@[simp] theorem answerFree_unseen : s.answerFree.unseen = s.unseen := rfl
@[simp] theorem loadMem_args : (s.loadMem a n).args = s.args := rfl
@[simp] theorem loadMem_results : (s.loadMem a n).results = s.results := rfl
@[simp] theorem loadMem_cmd : (s.loadMem a n).cmd = s.cmd := rfl
@[simp] theorem loadMem_status : (s.loadMem a n).status = s.status := rfl
@[simp] theorem loadMem_walker : (s.loadMem a n).walker = s.walker := rfl
@[simp] theorem loadMem_pend :
    (s.loadMem a n).pend = s.pend.map fun p => p.noteRead ⟨a, n⟩ := rfl
@[simp] theorem loadMem_mem : (s.loadMem a n).mem = s.mem := rfl
@[simp] theorem loadMem_params : (s.loadMem a n).params = s.params := rfl
@[simp] theorem loadMem_inbox : (s.loadMem a n).inbox = s.inbox := rfl
@[simp] theorem loadMem_observed : (s.loadMem a n).observed = s.observed := rfl
@[simp] theorem loadMem_unseen : (s.loadMem a n).unseen = s.unseen := rfl
@[simp] theorem storeMem_args : (s.storeMem a bytes).args = s.args := rfl
@[simp] theorem storeMem_results : (s.storeMem a bytes).results = s.results := rfl
@[simp] theorem storeMem_cmd : (s.storeMem a bytes).cmd = s.cmd := rfl
@[simp] theorem storeMem_status : (s.storeMem a bytes).status = s.status := rfl
@[simp] theorem storeMem_walker : (s.storeMem a bytes).walker = s.walker := rfl
@[simp] theorem storeMem_pend :
    (s.storeMem a bytes).pend = s.pend.map fun p => p.noteWrite ⟨a, bytes.length⟩ := rfl
@[simp] theorem storeMem_mem : (s.storeMem a bytes).mem = Memory.storeBytes s.mem a bytes := rfl
@[simp] theorem storeMem_params : (s.storeMem a bytes).params = s.params := rfl
@[simp] theorem storeMem_inbox : (s.storeMem a bytes).inbox = s.inbox := rfl
@[simp] theorem storeMem_observed : (s.storeMem a bytes).observed = s.observed := rfl
@[simp] theorem storeMem_unseen : (s.storeMem a bytes).unseen =
    s.unseen ++ Memory.cellsAt s.mem (s.storeUnseen a bytes.length) := rfl
@[simp] theorem storeMem_draws : (s.storeMem a bytes).draws = s.draws := rfl

end Load

/-! ## The latch (Machine/Ops.lean, Machine/Bus.lean) -/

@[simp] theorem noteRead_cmd (p : Pending) (r : Span) : (p.noteRead r).cmd = p.cmd := rfl
@[simp] theorem noteRead_snap (p : Pending) (r : Span) : (p.noteRead r).snap = p.snap := rfl
@[simp] theorem noteRead_delay (p : Pending) (r : Span) : (p.noteRead r).delay = p.delay := rfl
@[simp] theorem noteWrite_cmd (p : Pending) (r : Span) : (p.noteWrite r).cmd = p.cmd := rfl
@[simp] theorem noteWrite_snap (p : Pending) (r : Span) : (p.noteWrite r).snap = p.snap := rfl
@[simp] theorem noteWrite_delay (p : Pending) (r : Span) : (p.noteWrite r).delay = p.delay := rfl
@[simp] theorem noteRead_tag (p : Pending) (r : Span) : (p.noteRead r).tag = p.tag := rfl
@[simp] theorem noteWrite_tag (p : Pending) (r : Span) : (p.noteWrite r).tag = p.tag := rfl
@[simp] theorem tick_tag (p : Pending) : p.tick.tag = p.tag := rfl
@[simp] theorem tick_cmd (p : Pending) : p.tick.cmd = p.cmd := rfl
@[simp] theorem tick_snap (p : Pending) : p.tick.snap = p.snap := rfl
@[simp] theorem tick_delay (p : Pending) : p.tick.delay = p.delay - 1 := rfl

theorem latched_of_pend {s : State} {p : Pending} (h : s.pend = some p) : s.latched = p.snap := by
  simp [State.latched, h]

theorem latched_of_idle {s : State} (h : s.pend = none) : s.latched = ⟨s.args, s.walker, s.mem⟩ := by
  simp [State.latched, h]

@[simp] theorem accept_latched (s : State) (v : Word) (n : Nat) :
    (s.accept v n).latched = ⟨s.args, s.walker, s.mem⟩ := rfl

end Sys2Proof.Machine
end

