-- ==== Sys2Proof/Laws/Ops.lean ====
section
/-! SUPPORT. What each shared operation does, said once: checks, completion, execution, a step. -/

namespace Sys2Proof.Machine

/-! ## Bit fields -/

theorem fld_eq (v lo w : Nat) : fld v lo w = v / 2 ^ lo % 2 ^ w := by
  rw [fld, Nat.shiftRight_eq_div_pow]

theorem fld_lt (v lo w : Nat) : fld v lo w < 2 ^ w := Nat.mod_lt _ (Nat.two_pow_pos w)

@[simp] theorem fld_zero_width (v lo : Nat) : fld v lo 0 = 0 := by simp [fld, Nat.mod_one]

/-- The fields whose places are parameters lie in a 64-bit word (41_bitfield R152). -/
theorem parameter_fields_fit (p : Params) (f : Nat) :
    (lengthField p f).lo + (lengthField p f).width ≤ 64 ∧ p.phTypeLo + p.phTypeW ≤ 64 ∧ p.phTsLo + 28 ≤ 64 :=
  ⟨(lengthField p f).fits, p.phTypeFits, p.phTsFits⟩

theorem toNat_toWord (n : Nat) : (toWord n).toNat = n % 2 ^ 64 := BitVec.toNat_ofNat ..

theorem toWord_toNat (w : Word) : toWord w.toNat = w := by simp [toWord]

theorem element_toNat {n : Nat} (h : n < 2 ^ 12) : (element n).toNat = n := by
  rw [element, BitVec.toNat_ofNat]
  omega

theorem adcS_lt (m : Memory) (S k : Nat) : adcS m S k < 2 ^ 12 := fld_lt _ _ _

theorem adcF_lt (m : Memory) (F c : Nat) : adcF m F c < 2 ^ 12 := adcS_lt _ _ _

/-! ## Checks -/

/-- A list of checks passes iff none of them fails. -/
theorem firstFail_none {l : List (Bool × FaultCode)} : firstFail l = none ↔ ∀ c ∈ l, c.1 = false := by
  induction l with
  | nil => simp [firstFail]
  | cons c rest ih =>
    obtain ⟨b, e⟩ := c
    cases b <;> simp [firstFail, ih]

theorem accessOk_iff {p : Params} {a n : Nat} {k : AccessKind} :
    accessOk p a n k = true ↔ a + n ≤ 2 ^ 64 ∧ memOk p a n k = true := by
  simp [accessOk]

theorem meets_iff {r q : Span} :
    Span.meets r q = true ↔ 0 < r.len ∧ 0 < q.len ∧ r.base < q.base + q.len ∧ q.base < r.base + r.len := by
  simp [Span.meets, and_assoc]

/-- What an accessible range never shares a byte with: the register window (20_memory R60). -/
theorem memOk_window {p : Params} {a n : Nat} {k : AccessKind} (h : memOk p a n k = true) :
    Span.meets ⟨a, n⟩ (blockWindow p) = false := by
  simp only [memOk, Bool.and_eq_true, Bool.not_eq_true'] at h
  exact h.2

/-! ## Completion -/

theorem writeResults_out (r : Vector Word 8) (l : List (Fin 8 × Word)) (i : Fin 8) (h : ∀ e ∈ l, e.1 ≠ i) :
    (writeResults r l)[i] = r[i] := by
  induction l generalizing r with
  | nil => rfl
  | cons e rest ih =>
    obtain ⟨j, v⟩ := e
    have hj : (j : Nat) ≠ (i : Nat) := fun hc => h (j, v) (by simp) (Fin.ext hc)
    rw [writeResults, ih _ fun e he => h e (by simp [he])]
    simp [hj]

theorem drawResults_out (r : Vector Word 8) (n : Nat) (l : List (Fin 8)) (i : Fin 8) (h : i ∉ l) :
    (drawResults r n l)[i] = r[i] := by
  induction l generalizing r n with
  | nil => rfl
  | cons j rest ih =>
    simp only [List.mem_cons, not_or] at h
    have hj : (j : Nat) ≠ (i : Nat) := fun hc => h.1 (Fin.ext hc.symm)
    rw [drawResults, ih _ _ h.2]
    simp [hj]

/-- A command that ends normally, the host disciplined: its results, memory and walker writes are applied (40_control R131). -/
theorem complete_done {s : State} {d : List (Fin 8)} {e : Effect} {c : Bool} (hv : e.verdict = .done c)
    (hr : s.raced e = false) :
    (s.complete d e).results = writeResults s.results e.results ∧ (s.complete d e).status = s.status.finished c ∧
      (s.complete d e).walker = e.walker.getD s.walker ∧ (s.complete d e).mem = applyStores s.mem e.stores := by
  refine ⟨?_, ?_, ?_, ?_⟩
  · simp [State.resultsAfter, hv, hr]
  · simp [State.statusAfter, hv]
  · cases hw : e.walker <;> simp [State.walkerAfter, hv, hw, hr]
  · simp [State.memAfter, hv, hr]

/-- A command that faults: the code in STATUS, memory and walker unchanged, its result registers drawn (60_exceptions R281). -/
theorem complete_fault {s : State} {d : List (Fin 8)} {e : Effect} {c : FaultCode} (hv : e.verdict = .fault c) :
    (s.complete d e).results = drawResults s.results s.draws d ∧ (s.complete d e).status = s.status.faulted c ∧
      (s.complete d e).walker = s.walker ∧ (s.complete d e).mem = s.mem := by
  refine ⟨?_, ?_, ?_, ?_⟩
  · simp [State.resultsAfter, hv]
  · simp [State.statusAfter, hv]
  · simp [State.walkerAfter, hv]
  · simp [State.memAfter, hv]

theorem complete_untouched (s : State) (d : List (Fin 8)) (e : Effect) : Untouched s (s.complete d e) :=
  ⟨rfl, rfl, rfl, rfl, rfl, rfl⟩

/-- A command with no memory reads and no elements cannot be raced (20_memory R79). -/
theorem raced_of_quiet {s : State} {e : Effect} (h1 : e.reads = []) (h2 : e.stores = []) : s.raced e = false := by
  unfold State.raced
  cases s.pend <;> simp [Effect.writeSpans, h1, h2]

/-- A command nobody else accessed memory during is not raced. -/
theorem raced_of_no_access {s : State} {e : Effect} {p : Pending} (h : s.pend = some p) (h1 : p.hostReads = [])
    (h2 : p.hostWrites = []) : s.raced e = false := by
  simp [State.raced, h, h1, h2]

theorem raced_of_idle {s : State} {e : Effect} (h : s.pend = none) : s.raced e = false := by
  simp [State.raced, h]

/-! ## Operand forms: each is its checks, then its effect -/

theorem expandEffect_done {p : Params} {src nin dst nout : Nat} {l : List (Nat × Half)}
    (h : expCheck p src nin dst nout = none) :
    expandEffect p src nin dst nout l = { verdict := .done false, stores := l, reads := [⟨src, nin⟩] } := by
  simp [expandEffect, h]

theorem expandEffect_fault {p : Params} {src nin dst nout : Nat} {l : List (Nat × Half)} {e : FaultCode}
    (h : expCheck p src nin dst nout = some e) : expandEffect p src nin dst nout l = .raise e := by
  simp [expandEffect, h]

theorem contigEffect_done {p : Params} {x : Snapshot} {g : Nat} {l : List (Nat × Half)} (h0 : x.arg 3 ≠ 0)
    (h : contigCheck p g (x.arg 0) (x.arg 1) (x.arg 2) (x.arg 3) = none) :
    contigEffect p x g l = { verdict := .done false, stores := l, reads := [⟨x.arg 2, 240 * x.arg 3⟩] } := by
  simp [contigEffect, h0, h]

theorem contigEffect_fault {p : Params} {x : Snapshot} {g : Nat} {l : List (Nat × Half)} {e : FaultCode} (h0 : x.arg 3 ≠ 0)
    (h : contigCheck p g (x.arg 0) (x.arg 1) (x.arg 2) (x.arg 3) = some e) : contigEffect p x g l = .raise e := by
  simp [contigEffect, h0, h]

theorem pointerEffect_done {p : Params} {x : Snapshot} {g : Nat} {l : List (Nat × Half)} (h0 : x.arg 3 ≠ 0)
    (h1 : pointerCheckArray p g (x.arg 0) (x.arg 2) (x.arg 3) = none)
    (h2 : pointerCheckRows p x.mem (x.arg 0) (x.arg 1) (x.arg 2) (x.arg 3) = none) :
    pointerEffect p x g l =
      { verdict := .done false, stores := l, reads := [⟨x.arg 0, 1024⟩, ⟨x.arg 2, 240 * x.arg 3⟩] } := by
  simp [pointerEffect, h0, h1, h2]

theorem pointerEffect_array_fault {p : Params} {x : Snapshot} {g : Nat} {l : List (Nat × Half)} {e : FaultCode} (h0 : x.arg 3 ≠ 0)
    (h1 : pointerCheckArray p g (x.arg 0) (x.arg 2) (x.arg 3) = some e) : pointerEffect p x g l = .raise e := by
  simp [pointerEffect, h0, h1]

theorem pointerEffect_rows_fault {p : Params} {x : Snapshot} {g : Nat} {l : List (Nat × Half)} {e : FaultCode} (h0 : x.arg 3 ≠ 0)
    (h1 : pointerCheckArray p g (x.arg 0) (x.arg 2) (x.arg 3) = none)
    (h2 : pointerCheckRows p x.mem (x.arg 0) (x.arg 1) (x.arg 2) (x.arg 3) = some e) :
    pointerEffect p x g l = .raise e [⟨x.arg 0, 1024⟩] := by
  simp [pointerEffect, h0, h1, h2]

/-- With N = 0 a transpose does nothing (60_exceptions R282). -/
theorem contigEffect_none {p : Params} {x : Snapshot} {g : Nat} {l : List (Nat × Half)} (h0 : x.arg 3 = 0) :
    contigEffect p x g l = { verdict := .done false } := by
  simp [contigEffect, h0]

theorem pointerEffect_none {p : Params} {x : Snapshot} {g : Nat} {l : List (Nat × Half)} (h0 : x.arg 3 = 0) :
    pointerEffect p x g l = { verdict := .done false } := by
  simp [pointerEffect, h0]

/-! ## Execution -/

/-- Every command is the completion of its effect on the latched snapshot: the ONE lemma through which a proof about `exec` goes. -/
theorem exec_eq (i : Instr) (s : State) :
    exec i s = .next (s.complete (resultRegs i) (effectOf i s.params s.latched)) := by
  cases i <;> rfl

/-! ## Loads of memory (20_memory R81) -/

@[simp] theorem chooseByte_nil (n : Nat) (b : Byte) : chooseByte n b [] = b := rfl

/-- A choice is one of its alternatives. -/
theorem chooseByte_mem (n : Nat) (b : Byte) (l : List Byte) : chooseByte n b l = b ∨ chooseByte n b l ∈ l := by
  cases l with
  | nil => exact .inl rfl
  | cons c rest =>
    have h : chooseByte n b (c :: rest) ∈ b :: c :: rest := by
      have hk : Config.freeChoice n % (rest.length + 2) < (b :: c :: rest).length := Nat.mod_lt _ (by omega)
      rw [chooseByte, List.getD_eq_getElem _ _ hk]
      exact List.getElem_mem _
    exact List.mem_cons.mp h

theorem mem_oldBytes {s : State} {a : Nat} {v : Byte} : v ∈ s.oldBytes a ↔ (a, v) ∈ s.unseen := by
  simp only [State.oldBytes, List.mem_map, List.mem_filter, beq_iff_eq]
  exact ⟨fun ⟨c, ⟨hc, h1⟩, h2⟩ => by rw [← h1, ← h2]; exact hc, fun h => ⟨(a, v), ⟨h, rfl⟩, rfl⟩⟩

theorem newBytes_of_not_mem {s : State} {a : Nat} (h : a ∉ s.inFlightBytes) : s.newBytes a = [] := by
  unfold State.newBytes
  unfold State.inFlightBytes at h
  cases he : s.inFlight with
  | none => rfl
  | some e =>
    rw [he] at h
    simpa using h

theorem inFlightBytes_of_idle {s : State} (h : s.pend = none) : s.inFlightBytes = [] := by
  simp [State.inFlightBytes, State.inFlight, h]

/-- What a load with nothing in flight answers at an address: what stands there, or an older value of a byte the host has not acquired. -/
theorem loadByte_of_idle {s : State} {n a : Nat} (h : s.pend = none) :
    s.loadByte n a = Memory.read s.mem a ∨ (a, s.loadByte n a) ∈ s.unseen := by
  rw [← mem_oldBytes, State.loadByte, newBytes_of_not_mem (by simp [inFlightBytes_of_idle h]), List.append_nil]
  exact chooseByte_mem _ _ _

/-- A load answers what stands at an address the engine neither writes nor wrote unacquired. -/
theorem loadByte_settled {s : State} {n a : Nat} (h1 : a ∉ s.inFlightBytes) (h2 : ∀ c ∈ s.unseen, c.1 ≠ a) :
    s.loadByte n a = Memory.read s.mem a := by
  have ho : s.oldBytes a = [] := List.eq_nil_iff_forall_not_mem.mpr fun v hv => h2 _ (mem_oldBytes.mp hv) rfl
  rw [State.loadByte, ho, newBytes_of_not_mem h1, List.append_nil, chooseByte_nil]

@[simp] theorem loadBytes_length (s : State) (addr n : Nat) : (s.loadBytes addr n).length = n := by
  simp [State.loadBytes]

theorem loadBytes_get {s : State} {addr n k : Nat} (h : k < n) :
    (s.loadBytes addr n)[k]? = some (s.loadByte (s.draws + k) (addr + k)) := by
  simp [State.loadBytes, h]

/-! ## A step -/

/-- A step with nothing in flight is the host's turn. -/
theorem step_idle {s : State} (h : s.pend = none) : step s = s.hostTurn := by
  simp [step, State.turn, h]

/-- A step with a command due is its completion. -/
theorem step_due {s : State} {p : Pending} (h : s.pend = some p) (hd : p.delay = 0) :
    step s = s.engineTurn p.cmd := by
  simp [step, State.turn, h, hd]

/-- A step with a command not yet due is the host's turn, one delay less. -/
theorem step_waiting {s : State} {p : Pending} (h : s.pend = some p) (hd : p.delay ≠ 0) :
    step s = { s with pend := some p.tick }.hostTurn := by
  simp [step, State.turn, h, hd]

/-- The engine's turn: some effect is completed (40_control R131). -/
theorem engineTurn_cases (s : State) (v : Word) :
    (∃ i, decode v = .ok i ∧
      s.engineTurn v = .next (s.complete (resultRegs i) (effectOf i s.params s.latched))) ∨
    (∃ e, decode v = .error e ∧ s.engineTurn v = .next (s.complete [] (.raise .illegal))) := by
  unfold State.engineTurn
  cases h : decode v with
  | ok i => exact .inl ⟨i, rfl, exec_eq i s⟩
  | error e => exact .inr ⟨e, rfl, rfl⟩

/-- What the host's turn can do when it answers a next state. -/
theorem hostTurn_cases {s t : State} (h : s.hostTurn = .next t) :
    (s.inbox = [] ∧ t = s) ∨
    (∃ e rest, s.inbox = e :: rest ∧
      ((∃ addr n r, e = .load addr n ∧ target s.params addr n = .register r ∧
          t = { s with inbox := rest }.readReg r) ∨
       (∃ addr n, e = .load addr n ∧ target s.params addr n = .memory ∧
          t = { s with inbox := rest }.loadMem addr n) ∨
       (∃ addr bytes r, e = .store addr bytes ∧ target s.params addr bytes.length = .register r ∧
          t = { s with inbox := rest }.writeReg r (toWord (bytesValue bytes))) ∨
       (∃ addr bytes, e = .store addr bytes ∧ target s.params addr bytes.length = .memory ∧
          t = { s with inbox := rest }.storeMem addr bytes) ∨
       (e = .reset ∧ t = { s with inbox := rest }.resetNow { s with inbox := rest }.inFlightBytes))) := by
  unfold State.hostTurn at h
  split at h
  · next hi => exact .inl ⟨hi, by injection h with h; exact h.symm⟩
  · next e rest hi =>
    refine .inr ⟨e, rest, hi, ?_⟩
    cases e with
    | load addr n =>
      simp only [State.hostAct] at h
      split at h
      · next r hr => exact .inl ⟨addr, n, r, rfl, hr, by injection h with h; exact h.symm⟩
      · next hr => exact .inr (.inl ⟨addr, n, rfl, hr, by injection h with h; exact h.symm⟩)
      · cases h
      · cases h
    | store addr bytes =>
      simp only [State.hostAct] at h
      split at h
      · next r hr => exact .inr (.inr (.inl ⟨addr, bytes, r, rfl, hr, by injection h with h; exact h.symm⟩))
      · next hr => exact .inr (.inr (.inr (.inl ⟨addr, bytes, rfl, hr, by injection h with h; exact h.symm⟩)))
      · cases h
      · cases h
    | reset => exact .inr (.inr (.inr (.inr ⟨rfl, by injection h with h; exact h.symm⟩)))

end Sys2Proof.Machine
end

