-- ==== Sys2Proof/Laws/PerInstr.lean ====
section
/-! SUPPORT. A statement about every instruction as syntax, one lemma per constructor. -/

namespace Sys2Proof.Laws.EncodedOpcode

/-- The CMD value of a well-formed command fits in 32 bits and carries the command's opcode in its low byte (30_encoding R100,
R101, R105). -/
def Statement (i : Instr) : Prop :=
  i.wellFormed = true → (encode i).toNat < 2 ^ 32 ∧ (encode i).toNat % 256 = i.opcode

theorem encodeFB_fits {opc off wid : Nat} (h : opc < 256) (ho : off < 64) (hw : wid < 128) :
    (encodeFB opc off wid).toNat < 2 ^ 32 ∧ (encodeFB opc off wid).toNat % 256 = opc := by
  rw [encodeFB, BitVec.toNat_ofNat]
  omega

theorem nop : Statement .nop := fun _ => by decide

theorem bfx32 (off wid : Nat) : Statement (.bfx32 off wid) := by
  intro h
  simp only [Instr.wellFormed, Bool.and_eq_true, decide_eq_true_eq] at h
  exact encodeFB_fits (by decide) h.1 h.2

theorem bfx64 (off wid : Nat) : Statement (.bfx64 off wid) := by
  intro h
  simp only [Instr.wellFormed, Bool.and_eq_true, decide_eq_true_eq] at h
  exact encodeFB_fits (by decide) h.1 h.2

theorem hdr : Statement .hdr := fun _ => by decide

theorem exp64 : Statement .exp64 := fun _ => by decide

theorem exp128 : Statement .exp128 := fun _ => by decide

theorem exp128n : Statement .exp128n := fun _ => by decide

theorem trc1 : Statement .trc1 := fun _ => by decide

theorem trc8 : Statement .trc8 := fun _ => by decide

theorem trc16 : Statement .trc16 := fun _ => by decide

theorem trc32 : Statement .trc32 := fun _ => by decide

theorem trcn : Statement .trcn := fun _ => by decide

theorem trp1 : Statement .trp1 := fun _ => by decide

theorem trp8 : Statement .trp8 := fun _ => by decide

theorem trp16 : Statement .trp16 := fun _ => by decide

theorem trp32 : Statement .trp32 := fun _ => by decide

theorem trpn : Statement .trpn := fun _ => by decide

theorem winit : Statement .winit := fun _ => by decide

theorem wnext : Statement .wnext := fun _ => by decide

theorem wget : Statement .wget := fun _ => by decide

theorem scan : Statement .scan := fun _ => by decide

theorem tocdsc : Statement .tocdsc := fun _ => by decide

theorem toclen : Statement .toclen := fun _ => by decide

end Sys2Proof.Laws.EncodedOpcode
end

