-- ==== Sys2Proof/Tests/Slice0.lean ====
section
/-! SUPPORT. Tests: well-formedness, decoding of words written out from 30_encoding, and one step of each command on a small state.
The expected results are those of spec/95_test_vectors.md and of the examples in the command rules; the parameters are the vector
defaults of 00_scope R8. At the end, for each obligation with hypotheses, a theorem that some state meets them. -/

namespace Sys2Proof.Tests

-- One proof at a time: a thread per proof would take more memory than the check allows.
set_option Elab.async false

open Sys2Proof.Machine

/-! ## Helpers -/

/-- The vector defaults, every address below 2^64 accessible, the register window at the top of the address space. -/
def params : Params := { blkBase := 0xFFFFFFFFFFFFFF00, windows := [⟨0, 2 ^ 64, true, true⟩] }

/-- The bytes of a number, little-endian, as cells from an address. -/
def cells (a v : Nat) : Nat → Memory
  | 0 => []
  | n + 1 => if v % 256 = 0 then cells (a + 1) (v / 256) n else (a, BitVec.ofNat 8 v) :: cells (a + 1) (v / 256) n

/-- 64-bit words in memory from an address. -/
def words (a : Nat) : List Nat → Memory
  | [] => []
  | w :: rest => cells a w 8 ++ words (a + 8) rest

/-- A fresh block with given A0..A3 and memory. -/
def fresh (a0 a1 a2 a3 : Word) (m : Memory) : State :=
  { State.resetWith params with args := #v[a0, a1, a2, a3, 0, 0, 0, 0], mem := m }

/-- One command word performed by one step. -/
def run (s : State) (w : Nat) : Option State :=
  match step (s.withFetchWord 32 w) with
  | .next t => some t
  | _ => none

/-- R0..R6, STATUS after one command. -/
def outcome (s : State) (w : Nat) : Option (List Word × Word) :=
  (run s w).map fun t => (t.results.toList.take 7, t.status.word)

/-- STATUS after one command. -/
def statusOf (s : State) (w : Nat) : Option Word := (run s w).map fun t => t.status.word

/-- WSTATE, WCUR, WID after one command. -/
def walkOf (s : State) (w : Nat) : Option (BitVec 3 × Word × Word) :=
  (run s w).map fun t => (t.walker.wstate.code, t.walker.wcur, t.walker.wid)

/-- Halfwords of memory after one command. -/
def halves (s : State) (w : Nat) (addrs : List Nat) : Option (List Nat) :=
  (run s w).map fun t => addrs.map fun a => memRead t.mem a 2

/-! ## Well-formedness (30_encoding R103) -/

theorem test_wellFormed_off_too_wide : (Instr.bfx32 64 0).wellFormed = false := by decide
theorem test_wellFormed_wid_too_wide : (Instr.bfx32 0 128).wellFormed = false := by decide
theorem test_wellFormed_off_too_wide_64 : (Instr.bfx64 64 1).wellFormed = false := by decide
theorem test_wellFormed_wid_too_wide_64 : (Instr.bfx64 1 128).wellFormed = false := by decide
theorem test_wellFormed_largest : (Instr.bfx64 63 127).wellFormed = true := by decide

/-! ## Decoding: the words of 30_encoding R105, R112, bit by bit -/

theorem test_decode_nop : decode 0b00000000000000000000000000000000 = .ok .nop := by decide
theorem test_decode_bfx32 : decode 0b00000000000000100000010000010000 = .ok (.bfx32 4 8) := by decide
theorem test_decode_bfx64 : decode 0b00000000000001100000100000010001 = .ok (.bfx64 8 24) := by decide
theorem test_decode_bfx64_full : decode 0b00000000000100000000000000010001 = .ok (.bfx64 0 64) := by decide
theorem test_decode_bfx64_top : decode 0b00000000000000000111111100010001 = .ok (.bfx64 63 1) := by decide
theorem test_decode_hdr : decode 0b00000000000000000000000000011000 = .ok .hdr := by decide
theorem test_decode_exp64 : decode 0b00000000000000000000000000100000 = .ok .exp64 := by decide
theorem test_decode_exp128 : decode 0b00000000000000000000000000100001 = .ok .exp128 := by decide
theorem test_decode_exp128n : decode 0b00000000000000000000000000100010 = .ok .exp128n := by decide
theorem test_decode_trc1 : decode 0b00000000000000000000000000110000 = .ok .trc1 := by decide
theorem test_decode_trc8 : decode 0b00000000000000000000000000110001 = .ok .trc8 := by decide
theorem test_decode_trc16 : decode 0b00000000000000000000000000110010 = .ok .trc16 := by decide
theorem test_decode_trc32 : decode 0b00000000000000000000000000110011 = .ok .trc32 := by decide
theorem test_decode_trcn : decode 0b00000000000000000000000000110100 = .ok .trcn := by decide
theorem test_decode_trp1 : decode 0b00000000000000000000000000111000 = .ok .trp1 := by decide
theorem test_decode_trp8 : decode 0b00000000000000000000000000111001 = .ok .trp8 := by decide
theorem test_decode_trp16 : decode 0b00000000000000000000000000111010 = .ok .trp16 := by decide
theorem test_decode_trp32 : decode 0b00000000000000000000000000111011 = .ok .trp32 := by decide
theorem test_decode_trpn : decode 0b00000000000000000000000000111100 = .ok .trpn := by decide
theorem test_decode_winit : decode 0b00000000000000000000000001000000 = .ok .winit := by decide
theorem test_decode_wnext : decode 0b00000000000000000000000001000001 = .ok .wnext := by decide
theorem test_decode_wget : decode 0b00000000000000000000000001000010 = .ok .wget := by decide
theorem test_decode_scan : decode 0b00000000000000000000000001001000 = .ok .scan := by decide
theorem test_decode_tocdsc : decode 0b00000000000000000000000001010000 = .ok .tocdsc := by decide
theorem test_decode_toclen : decode 0b00000000000000000000000001010001 = .ok .toclen := by decide
theorem test_decode_reserved_opcode : decode 0x35 = .error .reservedOpcode := by decide
theorem test_decode_reserved_imm : decode 0x118 = .error .reservedBits := by decide
theorem test_decode_reserved_fb_bit : decode 0x00200011 = .error .reservedBits := by decide
theorem test_decode_reserved_high_half : decode 0x0000000100000000 = .error .highBits := by decide

/-- No two rows of the opcode table admit one word (30_encoding R106). -/
theorem test_rows_disjoint :
    opcodeTable.Pairwise (fun r q => (r.pattern ^^^ q.pattern) &&& r.mask &&& q.mask ≠ 0) := by decide

/-! ## Lifecycle and faults (95 §2.1) -/

theorem test_illegal_word : statusOf (fresh 0 0 0 0 []) 0x00200011 = some 0x112 := by decide
theorem test_nop : statusOf (fresh 0 0 0 0 []) 0 = some 0 := by decide
theorem test_nop_keeps_fseen :
    statusOf { fresh 0 0 0 0 [] with status := statusReset.faulted .field } 0 = some 0x10 := by decide

/-! ## Bit fields (95 §2.2) -/

theorem test_bfx32 : outcome (fresh 0xFFFFFFFF12345678 0 0 0 []) 0x00020410 = some ([0x67, 0, 0, 0, 0, 0, 0], 4) := by decide
theorem test_bfx32_too_wide : statusOf (fresh 0x12345678 0 0 0 []) 0x00045010 = some 0x212 := by decide
theorem test_bfx64_full :
    outcome (fresh 0xFEDCBA9876543210 0 0 0 []) 0x00100011 = some ([0xFEDCBA9876543210, 0, 0, 0, 0, 0, 0], 4) := by decide
theorem test_bfx64_too_wide : statusOf (fresh 0xFEDCBA9876543210 0 0 0 []) 0x00023C11 = some 0x212 := by decide

/-! ## Header (95 §2.6) -/

theorem test_hdr : outcome (fresh 0x3C10 0 0 0 []) 0x18 = some ([0, 1, 60, 480, 0, 0, 0], 4) := by decide
theorem test_hdr_unknown : outcome (fresh 0x3C15 0 0 0 []) 0x18 = some ([5, 1, 0, 0, 0, 0, 0], 0) := by decide

/-! ## Expansion (95 §2.3, §2.4) -/

/-- The packed words of the stream "ADC k = k" (95 §2.3). -/
def streamK : List Nat :=
  [0x5004003002001000, 0x0A00900800700600, 0x00F00E00D00C00B0, 0x5014013012011010, 0x1A01901801701601, 0x01F01E01D01C01B0,
   0x5024023022021020, 0x2A02902802702602, 0x02F02E02D02C02B0, 0x5034033032031030, 0x3A03903803703603, 0x03F03E03D03C03B0]

/-- The packed words of the stream "ADC k = 0x800 + k" (95 §2.3). -/
def streamK800 : List Nat :=
  [0x5804803802801800, 0x0A80980880780680, 0x80F80E80D80C80B8, 0x5814813812811810, 0x1A81981881781681, 0x81F81E81D81C81B8,
   0x5824823822821820, 0x2A82982882782682, 0x82F82E82D82C82B8, 0x5834833832831830, 0x3A83983883783683, 0x83F83E83D83C83B8]

/-- The frame of program P1 (95 §3) at an address. -/
def frame (a : Nat) : Memory :=
  words a ([0xBEEF000000D1A3BC, 0x0123456789ABCDEF, 0, 0] ++ streamK ++ [0, 0] ++ streamK800)

/-- Elements of an effect by their place in it: address and value. -/
def elementsAt (e : Effect) (places : List Nat) : List (Nat × Nat) :=
  places.map fun i => ((e.stores.getD i (0, 0)).1, (e.stores.getD i (0, 0)).2.toNat)

theorem test_exp64 :
    elementsAt (exp64Effect params (fresh 0x4000 0 0x1010 0 (frame 0x1000)).latched) [0, 5, 10, 63] =
      [(0x4000, 0), (0x400A, 5), (0x4014, 10), (0x407E, 63)] := by decide +kernel
theorem test_exp64_overlap : statusOf (fresh 0x10006E 0 0x100000 0 []) 0x20 = some 0x712 := by decide
theorem test_exp128 :
    elementsAt (exp128Effect params (fresh 0x2000 0 0x1000 0 (frame 0x1000)).latched) [0, 63, 64, 127] =
      [(0x2000, 0), (0x207E, 0x3F), (0x2080, 0x800), (0x20FE, 0x83F)] := by decide +kernel
theorem test_exp128_bus : statusOf (fresh 0x4000 0 0xFFFFFFFFFFFFFF18 0 []) 0x21 = some 0x612 := by decide
theorem test_exp128n :
    elementsAt (exp128nEffect params (fresh 0x2000 0 0xF10 2 (frame 0x1000)).latched) [0, 128, 191, 255] =
      [(0x2000, 0), (0x2100, 0), (0x217E, 0x3F), (0x21FE, 0x83F)] := by decide +kernel
theorem test_exp128n_none : statusOf (fresh 0x4001 0 0x100004 0 []) 0x22 = some 0 := by decide

/-- The first elements as they stand in memory after the step. -/
theorem test_exp64_step : halves (fresh 0x100 0 0x1010 0 (frame 0x1000)) 0x20 [0x100, 0x102, 0x104] = some [0, 1, 2] := by
  decide +kernel

/-! ## Transpose (95 §2.5) -/

/-- Two frames, the first all zero. -/
theorem test_trc1 :
    elementsAt (trc1Effect params (fresh 0x4000 4 0xF10 2 (frame 0x1000)).latched) [1, 129, 255] =
      [(0x4008, 0), (0x400A, 1), (0x43FA, 0x83F)] := by decide +kernel
theorem test_trc1_align : statusOf (fresh 0x4001 9 0x100000 9 []) 0x30 = some 0x312 := by decide
theorem test_trc8_gran_first : statusOf (fresh 0x4000 1 0x100000 9 []) 0x31 = some 0x412 := by decide
theorem test_trc8 :
    elementsAt (trc8Effect params (fresh 0x4000 8 0x970 8 (frame 0x1000)).latched) [1023] = [(0x47FE, 0x83F)] := by
  decide +kernel
theorem test_trc16_gran : statusOf (fresh 0x4000 8 0x100000 8 []) 0x32 = some 0x412 := by decide
theorem test_trc32_none : statusOf (fresh 0x4001 0 0x100004 0 []) 0x33 = some 0 := by decide
theorem test_trcn :
    elementsAt (trcnEffect params (fresh 0x4000 9 0x880 9 (frame 0x1000)).latched) [1025, 1151] =
      [(0x4022, 1), (0x48FE, 0x83F)] := by decide +kernel
theorem test_trcn_stride : statusOf (fresh 0x4000 8 0x100000 9 []) 0x34 = some 0x512 := by decide
theorem test_trcn_overlap : statusOf (fresh 0xFD850 40 0x100000 40 []) 0x34 = some 0x712 := by decide +kernel

/-- One frame, the pointers of channels 0 and 1 only. -/
theorem test_trp1 :
    ((pointerBody (frame 0x1000 ++ words 0x8000 [0x10000, 0x10020]) 0x8000 0x1000 2 1).take 2).map
      (fun e => (e.1, e.2.toNat)) = [(0x10004, 0), (0x10024, 1)] := by decide +kernel
theorem test_trp1_rows_clash : rowsClash (fun c => ⟨0x10000 + 0x20 * c, 34⟩) = true := by decide +kernel
theorem test_trp1_no_pointers : statusOf (fresh 0xFFFFFFFFFFFFFE00 0 0x100000 3 []) 0x38 = some 0x612 := by decide
theorem test_trp8_gran : statusOf (fresh 0x8000 0 0x100000 12 []) 0x39 = some 0x412 := by decide
theorem test_trp16_gran : statusOf (fresh 0x8000 0 0x100000 24 []) 0x3A = some 0x412 := by decide
theorem test_trp32_align : statusOf (fresh 0x8004 0 0x100000 32 []) 0x3B = some 0x312 := by decide
theorem test_trpn_none : statusOf (fresh 0x8001 0 0x100001 0 []) 0x3C = some 0 := by decide

/-- With memory all zero the 128 pointers coincide (95 §2.5, two rows coincide). -/
theorem test_trpn_rows_coincide : statusOf (fresh 0x8000 0 0x100000 3 []) 0x3C = some 0x712 := by decide +kernel

/-! ## Walker (95 §2.9, §4) -/

/-- Area A44 (95 §4.1) at 0x5000. -/
def areaA44 : Memory :=
  words 0x5000 [0x1111111110000123, 0x1111111111111111, 0x2222222220000456, 0x3333333330000789, 0x50000ABC33333333, 0x55555555]

/-- A fresh block whose walker stands at a payload of an area at 0x5000. -/
def walking (size cur id : Word) (m : Memory) : State :=
  { fresh 0 0 0 0 m with walker := ⟨.atPayload, 0x5000, size, cur, id⟩ }

theorem test_winit : walkOf (fresh 0x5000 44 0 0 []) 0x40 = some (1, 0, 0) := by decide
theorem test_winit_bus : statusOf (fresh 0xFFFFFFFFFFFFFFFC 8 0 0 []) 0x40 = some 0x612 := by decide
theorem test_wnext :
    outcome (walking 44 24 2 areaA44) 0x41 = some ([0x5018, 3, 0x501C, 0, 2, 0x789, 8], 4) := by decide +kernel
theorem test_wnext_walker : walkOf (walking 44 36 3 areaA44) 0x41 = some (2, 44, 4) := by decide +kernel
theorem test_wnext_uninit : statusOf (fresh 0 0 0 0 []) 0x41 = some 0xB12 := by decide
theorem test_wget :
    outcome { walking 44 44 4 areaA44 with args := #v[2, 0, 0, 0, 0, 0, 0, 0] } 0x42 =
      some ([0x5018, 3, 0x501C, 0, 2, 0x789, 8], 4) := by decide +kernel
theorem test_wget_range :
    outcome { walking 44 44 4 areaA44 with args := #v[4, 0, 0, 0, 0, 0, 0, 0] } 0x42 =
      some ([0, 0, 0, 4, 4, 0, 0], 0) := by decide +kernel

/-! ## Scan and Toc (95 §2.7, §2.8) -/

/-- Stream S1 (95 §2.7). -/
def streamS1 : Memory := words 0x8000 [0x310, 0, 0, 0x200000021, 0, 0x7932]

theorem test_scan :
    outcome (fresh 0x8000 100 0 0 streamS1) 0x48 =
      some ([0x8000, 0x8018, 0x8028, 0x700000003, 0x83F0, 0xFFFFFFFFFFFFFFE6, 0], 4) := by decide +kernel
theorem test_scan_zero_len :
    statusOf (fresh 0x8000 9 0 0 (words 0x8000 [0x310, 0, 0, 0x270, 0, 0x310])) 0x48 = some 0xA12 := by decide +kernel

/-- The Toc of 95 §1 item 7 at 0x9000. -/
def toc : Memory := words 0x9000 [0x00003C1000000010, 0x00007800]

theorem test_tocdsc :
    outcome (fresh 0x9000 1 2 0xA000 toc) 0x50 = some ([0, 1, 60, 1, 0xA1E0, 0, 0], 4) := by decide +kernel
theorem test_tocdsc_index_first : statusOf (fresh 0x9002 5 2 0 toc) 0x50 = some 0x812 := by decide +kernel
theorem test_toclen :
    outcome (fresh 0x9000 1 2 0xA000 toc) 0x51 = some ([60, 2, 0, 1, 0xA1E0, 0, 0], 4) := by decide +kernel
theorem test_toclen_order :
    statusOf (fresh 0x9000 0 1 0 (words 0x9000 [0x0000001000003C10])) 0x51 = some 0x912 := by decide +kernel

/-! ## The host's side (95 §3 P4, 10_state R29) -/

/-- A command in flight with one host turn left, the host about to write A0. -/
theorem test_busy_write_ignored :
    (match step { (fresh 0x4000 0 0 0 []).accept 0 1 with
        inbox := [.store (slotAddr params 8) [0, 0x60, 0, 0, 0, 0, 0, 0]] } with
      | .next t => some (t.args[0], t.status.word)
      | _ => none) = some (0x4000, 9) := by decide +kernel

/-- The same write to an idle block. -/
theorem test_idle_write :
    (match step { fresh 0x4000 0 0 0 [] with
        inbox := [.store (slotAddr params 8) [0, 0x60, 0, 0, 0, 0, 0, 0]] } with
      | .next t => some (t.args[0], t.status.word)
      | _ => none) = some (0x6000, 0) := by decide +kernel

/-! ## Witnesses: for each obligation with hypotheses, a state and operands that meet them -/

/-- A block with a command accepted: the host's turn if `delay` is not 0, the engine's otherwise. -/
def issued (cmd : Word) (delay : Nat) : State := (fresh 0 0 0 0 []).accept cmd delay

/-- The same with host actions to come. -/
def hosting (s : State) (es : List HostEvent) : State := { s with inbox := es }

/-- Eight bytes of a store. -/
def eight : List Byte := [1, 0, 0, 0, 0, 0, 0, 0]

theorem idle_hostTurn (es : List HostEvent) : (hosting (fresh 0 0 0 0 []) es).HostTurn := fun _ h => nomatch h

theorem issued_hostTurn (es : List HostEvent) : (hosting (issued 0 1) es).HostTurn := by
  rintro p ⟨⟩
  decide

theorem issued_lifecycle (cmd : Word) (delay : Nat) (es : List HostEvent) : (hosting (issued cmd delay) es).LifecycleInv := by
  refine ⟨⟨fun _ => nofun, fun _ => rfl⟩, ?_⟩
  rintro p ⟨⟩
  exact ⟨rfl, rfl, rfl, rfl, rfl, rfl, rfl⟩

theorem witness_encoding :
    (Instr.bfx64 63 127).wellFormed = true ∧ decode 0x001FFF11 = .ok (.bfx64 63 127) ∧ rowFB "BFX64" 0x11 ∈ opcodeTable := by
  decide

theorem witness_StepRunsDecodedCommand :
    (issued 0x18 0).Due ⟨0x18, (fresh 0 0 0 0 []).latched, 0, 0, [], []⟩ ∧ decode 0x18 = .ok .hdr ∧
      Instr.hdr.wellFormed = true := ⟨⟨rfl, rfl⟩, by decide, by decide⟩

theorem witness_IllegalWordFaults :
    (issued 0x35 0).Due ⟨0x35, (fresh 0 0 0 0 []).latched, 0, 0, [], []⟩ ∧ decode 0x35 = .error .reservedOpcode :=
  ⟨⟨rfl, rfl⟩, by decide⟩

theorem witness_CmdWriteIsAccepted :
    ∃ s : State, s.pend = none ∧ s.status.busy = false ∧ s.inbox = [.store (slotAddr s.params 0) eight] :=
  ⟨hosting (fresh 0 0 0 0 []) [.store (slotAddr params 0) eight], rfl, rfl, rfl⟩

/-- The first and the last register of the clause; the sticky clauses by a block whose OVR is set. -/
theorem witness_BusyWritesSetOverrun :
    (∀ k ∈ [0, 8, 15], ∃ s : State, s.HostTurn ∧ s.status.busy = true ∧ (k = 0 ∨ 8 ≤ k ∧ k < 16) ∧
      s.inbox = [.store (slotAddr s.params k) eight]) ∧
    (∃ s t : State, step s = .next t ∧ s.status.ovr = true) ∧
    ∃ s t : State, s.ResetNext ∧ step s = .next t :=
  ⟨fun k h => ⟨hosting (issued 0 1) [.store (slotAddr params k) eight], issued_hostTurn _, rfl,
      by revert k; decide, rfl⟩,
    ⟨{ fresh 0 0 0 0 [] with status := statusReset.overrun }, _, rfl, rfl⟩,
    ⟨hosting (fresh 0 0 0 0 []) [.reset], _, ⟨idle_hostTurn _, rfl⟩, rfl⟩⟩

theorem witness_FaultSeenIsSticky :
    (∃ (s t : State) (p : Pending), s.Due p ∧ step s = .next t ∧ t.status.err = true) ∧
    (∃ s t : State, step s = .next t ∧ s.status.fseen = true) ∧ ∃ s t : State, s.ResetNext ∧ step s = .next t :=
  ⟨⟨issued 0x35 0, (issued 0x35 0).complete [] (.raise .illegal), _, ⟨rfl, rfl⟩, (step_due rfl rfl).trans rfl, rfl⟩,
    ⟨{ fresh 0 0 0 0 [] with status := statusReset.faulted .field }, _, rfl, rfl⟩,
    ⟨hosting (fresh 0 0 0 0 []) [.reset], _, ⟨idle_hostTurn _, rfl⟩, rfl⟩⟩

/-- The first and last slots of each range. -/
theorem witness_HostRegisterWrites :
    (∀ k ∈ [1, 6, 16, 23], ∃ s : State, s.HostTurn ∧ (1 ≤ k ∧ k ≤ 6 ∨ 16 ≤ k ∧ k < 24) ∧
      s.inbox = [.store (slotAddr s.params k) eight]) ∧
    ∀ i : Fin 8, ∃ s : State, s.HostTurn ∧ s.status.busy = false ∧ s.inbox = [.store (slotAddr s.params (8 + i)) eight] :=
  ⟨fun k h => ⟨hosting (issued 0 1) [.store (slotAddr params k) eight], issued_hostTurn _, by revert k; decide, rfl⟩,
    fun i => ⟨hosting (fresh 0 0 0 0 []) [.store (slotAddr params (8 + i)) eight], idle_hostTurn _, rfl, rfl⟩⟩

/-- The ends of the reserved offsets; then an access of 4 bytes, one misaligned, one into the window from below. -/
theorem witness_WindowAccessRules :
    (∀ k ∈ [7, 24, 31], (k = 7 ∨ 24 ≤ k ∧ k < 32) ∧
      ∃ s u : State, s.HostTurn ∧ u.HostTurn ∧ s.inbox = [.load (slotAddr s.params k) 8] ∧
        u.inbox = [.store (slotAddr u.params k) eight]) ∧
    ∀ an ∈ [(0xFFFFFFFFFFFFFF00, 4), (0xFFFFFFFFFFFFFFF4, 8), (0xFFFFFFFFFFFFFEFC, 8)], ∃ s u : State,
      s.HostTurn ∧ u.HostTurn ∧ an.1 + an.2 ≤ 2 ^ 64 ∧
        (∃ a, an.1 ≤ a ∧ a < an.1 + an.2 ∧ s.params.blkBase.toNat ≤ a ∧ a < s.params.blkBase.toNat + 256) ∧
        ¬ (an.2 = 8 ∧ ∃ k, an.1 = slotAddr s.params k) ∧ s.inbox = [.load an.1 an.2] ∧
        u.inbox = [.store an.1 (List.replicate an.2 0)] := by
  refine ⟨fun k h => ⟨by revert k; decide, hosting (fresh 0 0 0 0 []) [.load (slotAddr params k) 8],
    hosting (fresh 0 0 0 0 []) [.store (slotAddr params k) eight], idle_hostTurn _, idle_hostTurn _, rfl, rfl⟩, ?_⟩
  have hb : params.blkBase.toNat = 0xFFFFFFFFFFFFFF00 := rfl
  intro an h
  refine ⟨hosting (fresh 0 0 0 0 []) [.load an.1 an.2], hosting (fresh 0 0 0 0 []) [.store an.1 (List.replicate an.2 0)],
    idle_hostTurn _, idle_hostTurn _, ?_, ?_, ?_, rfl, rfl⟩
  · revert an; decide
  · refine ⟨max an.1 0xFFFFFFFFFFFFFF00, ?_⟩
    show an.1 ≤ _ ∧ _ < _ ∧ params.blkBase.toNat ≤ _ ∧ _ < params.blkBase.toNat + 256
    rw [hb]
    revert an; decide
  · rintro ⟨h8, k, hk⟩
    change an.1 = params.blkBase.toNat + 8 * k at hk
    rw [hb] at hk
    simp only [List.mem_cons, List.not_mem_nil, or_false] at h
    obtain rfl | rfl | rfl := h <;> simp only at h8 hk <;> omega

/-- Busy with a command; idle, but the host has not seen BUSY = 0; idle. -/
theorem witness_RegisterReads :
    (∀ k ∈ [2, 6, 16, 23], (2 ≤ k ∧ k ≤ 6 ∨ 16 ≤ k ∧ k < 24) ∧
      (∃ s : State, s.HostTurn ∧ s.status.busy = true ∧ s.inbox = [.load (slotAddr s.params k) 8]) ∧
      ∃ s : State, s.HostTurn ∧ s.status.busy = false ∧ s.observed = false ∧ s.inbox = [.load (slotAddr s.params k) 8]) ∧
    (∀ k ∈ [2, 3, 4, 5, 6, 16, 23], ∃ (s : State) (v : Word), s.HostTurn ∧ s.status.busy = false ∧ s.observed = true ∧
      (k = 2 ∧ v = s.walker.wstate.code.zeroExtend 64 ∨ k = 3 ∧ v = s.walker.wbase ∨ k = 4 ∧ v = s.walker.wsize ∨
        k = 5 ∧ v = s.walker.wcur ∨ k = 6 ∧ v = s.walker.wid ∨ ∃ i : Fin 8, k = 16 + i ∧ v = s.results[i]) ∧
      s.inbox = [.load (slotAddr s.params k) 8]) ∧
    ∀ k ∈ [0, 1, 8, 15], ∃ (s : State) (v : Word), s.HostTurn ∧
      (k = 0 ∧ v = s.cmd ∨ k = 1 ∧ v = s.status.word ∨ ∃ i : Fin 8, k = 8 + i ∧ v = s.args[i]) ∧
      s.inbox = [.load (slotAddr s.params k) 8] := by
  refine ⟨fun k h => ⟨by revert k; decide, ⟨hosting (issued 0 1) [.load (slotAddr params k) 8], issued_hostTurn _, rfl, rfl⟩,
      { hosting (fresh 0 0 0 0 []) [.load (slotAddr params k) 8] with observed := false }, (fun _ h => nomatch h), rfl, rfl,
      rfl⟩,
    fun k h => ⟨hosting (fresh 0 0 0 0 []) [.load (slotAddr params k) 8], 0, idle_hostTurn _, rfl, rfl, ?_, rfl⟩,
    fun k h => ⟨hosting (fresh 0 0 0 0 []) [.load (slotAddr params k) 8], 0, idle_hostTurn _, ?_, rfl⟩⟩
  all_goals revert k; decide +kernel

/-- A store and a load during a command; a load after a completion the host has not seen; a STATUS read and then a load. -/
theorem witness_StatusReadAcquiresMemory :
    (∃ s : State, s.HostTurn ∧ target s.params 0x1000 eight.length = .memory ∧ s.inbox = [.store 0x1000 eight]) ∧
    (∃ s : State, s.HostTurn ∧ target s.params 0x1000 8 = .memory ∧ s.inbox = [.load 0x1000 8] ∧
      0x1000 ∉ s.inFlightBytes ∧ ∀ c ∈ s.unseen, c.1 ≠ 0x1000) ∧
    (∃ (s t : State) (p : Pending), s.Due p ∧ s.unseen = [] ∧ step s = .next t ∧ target s.params 0x4000 8 = .memory ∧
      s.inbox = [.load 0x4000 8] ∧ 0x4000 ∈ s.inFlightBytes) ∧
    ∃ s : State, s.pend = none ∧ s.status.busy = false ∧ target s.params 0x1000 8 = .memory ∧
      s.inbox = [.load (slotAddr s.params 1) 8, .load 0x1000 8] :=
  ⟨⟨hosting (issued 0 1) [.store 0x1000 eight], issued_hostTurn _, by decide +kernel, rfl⟩,
    ⟨hosting (issued 0 1) [.load 0x1000 8], issued_hostTurn _, by decide +kernel, rfl, by decide +kernel, nofun⟩,
    ⟨hosting ((fresh 0x4000 0 0x1010 0 []).accept 0x20 0) [.load 0x4000 8], _,
      ⟨0x20, (fresh 0x4000 0 0x1010 0 []).latched, 0, 0, [], []⟩, ⟨rfl, rfl⟩, rfl,
      (step_due (p := ⟨0x20, (fresh 0x4000 0 0x1010 0 []).latched, 0, 0, [], []⟩) rfl rfl).trans
        (exec_eq .exp64 (hosting ((fresh 0x4000 0 0x1010 0 []).accept 0x20 0) [.load 0x4000 8])),
      by decide +kernel, rfl, by decide +kernel⟩,
    ⟨hosting (fresh 0 0 0 0 []) [.load (slotAddr params 1) 8, .load 0x1000 8], rfl, rfl, by decide +kernel, rfl⟩⟩

/-- A command due after two host turns, a store and a STATUS read among them. -/
theorem witness_AcceptedCommandCompletes :
    ∃ (s : State) (p : Pending), s.LifecycleInv ∧ s.pend = some p ∧ p.delay = 2 ∧
      ∀ e ∈ s.inbox.take p.delay, HostEvent.plain s.params e := by
  refine ⟨hosting (issued 0 2) [.store 0x1000 eight, .load (slotAddr params 1) 8], _, issued_lifecycle _ _ _, rfl, rfl, ?_⟩
  intro e he
  have he' : e ∈ [HostEvent.store 0x1000 eight, .load (slotAddr params 1) 8] := he
  simp only [List.mem_cons, List.not_mem_nil, or_false] at he'
  obtain rfl | rfl := he'
  · exact .inl (by decide +kernel)
  · exact .inr ⟨.status, by decide +kernel⟩

/-- One state for the four invariants: a command due, so that a step completes it. -/
theorem witness_invariants :
    (issued 0x40 0).LifecycleInv ∧ (issued 0x40 0).StatusInv ∧ (issued 0x40 0).WalkerInv ∧ (issued 0x40 0).MemoryInv ∧
      ∃ t, step (issued 0x40 0) = .next t := by
  refine ⟨issued_lifecycle _ _ [], ⟨by decide, by decide, nofun⟩, ⟨fun _ => rfl, nofun, by decide, by decide⟩, ⟨rfl, ?_⟩, _,
    (step_due rfl rfl).trans rfl⟩
  rintro p ⟨⟩
  rfl

theorem witness_ResetAtAnyTime : ∃ s : State, s.HostTurn ∧ s.inbox = [.reset] :=
  ⟨hosting (issued 0 1) [.reset], issued_hostTurn _, rfl⟩

/-- A load past the top of the address space; a load of half a register. -/
theorem witness_OnlyHostAccessesStop :
    step (hosting (fresh 0 0 0 0 []) [.load 0xFFFFFFFFFFFFFFFF 2]) = .fault .hostAddress ∧
      step (hosting (fresh 0 0 0 0 []) [.load (slotAddr params 1) 4]) = .refused .windowAccess :=
  ⟨rfl, rfl⟩

theorem witness_FaultsArePrecise : ∃ t, exec .wnext (fresh 0 0 0 0 []) = .next t ∧ t.status.err = true :=
  ⟨_, exec_eq _ _, rfl⟩

/-- A command nobody disturbs, and the same with the first byte of its source written by the host. -/
theorem witness_RaceKeepsStatus :
    ∃ (s t u : State) (p : Pending), s.pend = some p ∧ exec .exp64 s = .next t ∧
      exec .exp64 { s with pend := some { p with hostReads := [], hostWrites := [⟨0x1010, 1⟩] } } = .next u :=
  ⟨(fresh 0x4000 0 0x1010 0 []).accept 0x20 0, _, _, _, rfl, exec_eq _ _, exec_eq _ _⟩

theorem witness_EffectDependsOnReadSet :
    ∃ m, m ≠ (fresh 0x9000 1 2 0 toc).mem ∧ ∀ r ∈ (effectOf .tocdsc params (fresh 0x9000 1 2 0 toc).latched).reads, ∀ a, r.base ≤ a →
      a < r.base + r.len → Memory.read m a = Memory.read (fresh 0x9000 1 2 0 toc).mem a := by
  refine ⟨(0x8000, 1) :: toc, by decide, ?_⟩
  intro r hr a h1 h2
  have hr' : (effectOf .tocdsc params (fresh 0x9000 1 2 0 toc).latched).reads = [⟨0x9004, 4⟩] := by decide +kernel
  rw [hr', List.mem_singleton] at hr
  subst hr
  have : Nat.beq a 0x8000 = false := by
    rw [Bool.eq_false_iff, ne_eq, Nat.beq_eq]
    simp only at h1
    omega
  simp [Memory.read, this, fresh]

theorem witness_footprints :
    (∃ t, exec .exp64 (fresh 0x4000 0 0x1010 0 []) = .next t) ∧
      (effectOf .tocdsc params (fresh 0x9000 1 2 0 toc).latched).reads ≠ [] ∧
      (effectOf .exp64 params (fresh 0x4000 0 0x1010 0 []).latched).reads ≠ [] ∧
      (effectOf .exp64 params (fresh 0x4000 0 0x1010 0 []).latched).writeBytes ≠ [] :=
  ⟨⟨_, exec_eq _ _⟩, by decide +kernel⟩

/-- The last ADC of a stream, the last group. -/
theorem witness_PackedAdcExtraction : ∃ k g : Nat, k < 64 ∧ k = 16 * g + 15 ∧ g < 4 := ⟨63, 3, by decide⟩

theorem witness_EmptyTransformsDoNothing : ∃ s : State, s.latched.arg 3 = 0 ∧ s.latched.arg 0 % 2 ≠ 0 :=
  ⟨fresh 0x4001 0 0x1001 0 [], by decide⟩

/-- OFF + WID at the width, and one above it. -/
theorem witness_bitfields : 31 + 1 ≤ 32 ∧ 32 < 32 + 1 ∧ 63 + 1 ≤ 64 ∧ 64 < 63 + 2 := by decide

/-- A header word of each of the formats 0 to 3, and one of none. -/
theorem witness_HdrDecodes :
    ∀ f ∈ [0, 1, 2, 3, 15], ∃ s : State, s.latched.arg 0 % 16 = f := by
  intro f h
  refine ⟨fresh (BitVec.ofNat 64 f) 0 0 0 [], ?_⟩
  revert f
  decide

theorem witness_expansions :
    (∃ s : State, s.latched.arg 2 % 8 = 0 ∧ s.latched.arg 0 % 2 = 0 ∧ s.latched.arg 2 + 112 ≤ 2 ^ 64 ∧
      memOk s.params (s.latched.arg 2) 112 .read = true ∧ s.latched.arg 0 + 128 ≤ 2 ^ 64 ∧
      memOk s.params (s.latched.arg 0) 128 .write = true ∧
      (s.latched.arg 2 + 112 ≤ s.latched.arg 0 ∨ s.latched.arg 0 + 128 ≤ s.latched.arg 2) ∧
      Disciplined s (exp64Effect s.params s.latched)) ∧
    (∃ s : State, s.latched.arg 2 % 8 = 0 ∧ s.latched.arg 0 % 2 = 0 ∧ s.latched.arg 2 + 240 ≤ 2 ^ 64 ∧
      memOk s.params (s.latched.arg 2) 240 .read = true ∧ s.latched.arg 0 + 256 ≤ 2 ^ 64 ∧
      memOk s.params (s.latched.arg 0) 256 .write = true ∧
      (s.latched.arg 2 + 240 ≤ s.latched.arg 0 ∨ s.latched.arg 0 + 256 ≤ s.latched.arg 2) ∧
      Disciplined s (exp128Effect s.params s.latched)) ∧
    ∃ s : State, s.latched.arg 3 ≠ 0 ∧ s.latched.arg 2 % 8 = 0 ∧ s.latched.arg 0 % 2 = 0 ∧
      s.latched.arg 2 + 240 * s.latched.arg 3 ≤ 2 ^ 64 ∧
      memOk s.params (s.latched.arg 2) (240 * s.latched.arg 3) .read = true ∧
      s.latched.arg 0 + 256 * s.latched.arg 3 ≤ 2 ^ 64 ∧
      memOk s.params (s.latched.arg 0) (256 * s.latched.arg 3) .write = true ∧
      (s.latched.arg 2 + 240 * s.latched.arg 3 ≤ s.latched.arg 0 ∨ s.latched.arg 0 + 256 * s.latched.arg 3 ≤ s.latched.arg 2) ∧
      Disciplined s (exp128nEffect s.params s.latched) := by
  refine ⟨⟨fresh 0x1080 0 0x1010 0 [], ?_⟩, ⟨fresh 0x2000 0 0x1000 0 [], ?_⟩, ⟨fresh 0x2000 0 0x1000 2 [], ?_⟩⟩
  all_goals repeat' first | exact raced_of_idle rfl | decide +kernel | apply And.intro

theorem witness_RepackRoundTrip :
    ∃ s t : State, Disciplined s (exp64Effect s.params s.latched) ∧ exec .exp64 s = .next t ∧ t.status.err = false :=
  ⟨fresh 0x1080 0 0x1010 0 (frame 0x1000), _, raced_of_idle rfl, exec_eq _ _, by decide +kernel⟩

/-- For the sizes of EXP64 and of EXP128 (and of EXP128N with N = 1), a state for each check of R172: a stream or an output
misaligned by the least amount, a source past 2^64, a source and an output that end in the first bytes of the register window, an
output that ends in the first element's bytes of the source. -/
theorem witness_ExpansionFaultOrder :
    ∀ io ∈ [(112, 128), (240, 256)],
      (∃ s : State, s.latched.arg 3 ≠ 0 ∧ s.latched.arg 2 % 8 ≠ 0) ∧
      (∃ s : State, s.latched.arg 3 ≠ 0 ∧ s.latched.arg 2 % 8 = 0 ∧ s.latched.arg 0 % 2 ≠ 0) ∧
      (∃ s : State, s.latched.arg 3 ≠ 0 ∧ s.latched.arg 2 % 8 = 0 ∧ s.latched.arg 0 % 2 = 0 ∧
        2 ^ 64 < s.latched.arg 2 + io.1) ∧
      (∃ s : State, s.latched.arg 3 ≠ 0 ∧ s.latched.arg 2 % 8 = 0 ∧ s.latched.arg 0 % 2 = 0 ∧
        memOk s.params (s.latched.arg 2) io.1 .read = false) ∧
      (∃ s : State, s.latched.arg 3 ≠ 0 ∧ s.latched.arg 2 % 8 = 0 ∧ s.latched.arg 0 % 2 = 0 ∧
        s.latched.arg 2 + io.1 ≤ 2 ^ 64 ∧ memOk s.params (s.latched.arg 2) io.1 .read = true ∧
        memOk s.params (s.latched.arg 0) io.2 .write = false) ∧
      ∃ s : State, s.latched.arg 3 ≠ 0 ∧ s.latched.arg 2 % 8 = 0 ∧ s.latched.arg 0 % 2 = 0 ∧
        s.latched.arg 2 + io.1 ≤ 2 ^ 64 ∧ memOk s.params (s.latched.arg 2) io.1 .read = true ∧
        s.latched.arg 0 + io.2 ≤ 2 ^ 64 ∧ memOk s.params (s.latched.arg 0) io.2 .write = true ∧
        s.latched.arg 2 < s.latched.arg 0 + io.2 ∧ s.latched.arg 0 < s.latched.arg 2 + io.1 := by
  intro io h
  refine ⟨⟨fresh 0x4000 0 0x1001 1 [], ?_⟩, ⟨fresh 0x4001 0 0x1000 1 [], ?_⟩,
    ⟨fresh 0x4000 0 (BitVec.ofNat 64 (2 ^ 64 - io.1 + 8)) 1 [], ?_⟩,
    ⟨fresh 0x4000 0 (BitVec.ofNat 64 (2 ^ 64 - 256 - io.1 + 8)) 1 [], ?_⟩,
    ⟨fresh (BitVec.ofNat 64 (2 ^ 64 - 256 - io.2 + 2)) 0 0x1000 1 [], ?_⟩,
    ⟨fresh (BitVec.ofNat 64 (0x1000 - io.2 + 2)) 0 0x1000 1 [], ?_⟩⟩
  all_goals revert io; decide +kernel

/-- Two memories that differ in word 0 of the stream and frame at 0x1000 only; one frame, the pointers at 0x8000. -/
theorem witness_FrameHeadersAreIgnored :
    (∀ j b, 2 ≤ j ∧ j < 14 → b < 8 → Memory.read [] (0x1000 + 8 * j + b) = Memory.read [(0x1000, 1)] (0x1000 + 8 * j + b)) ∧
    (∀ f, f < 1 → ∀ j b, (4 ≤ j ∧ j < 16 ∨ 18 ≤ j ∧ j < 30) → b < 8 →
      Memory.read [] (0x1000 + 240 * f + 8 * j + b) = Memory.read [(0x1000, 1)] (0x1000 + 240 * f + 8 * j + b)) ∧
    ∀ b, b < 1024 → Memory.read [] (0x8000 + b) = Memory.read [(0x1000, 1)] (0x8000 + b) := by
  refine ⟨fun j b hj hb => ?_, fun f hf j b hj hb => ?_, fun b hb => ?_⟩
  all_goals rw [read_cons, if_neg (by omega)]

/-- The pointers 0x10000*(c + 1) at 0x8000. -/
def pointers : Memory := (List.range 128).map fun c => (0x8000 + 8 * c + 2, BitVec.ofNat 8 (c + 1))

theorem pointers_wf : Memory.wf pointers = true := by decide +kernel

theorem read_listed (l : List Nat) (g : Nat → Byte) (c : Nat) (h : c ∈ l) :
    Memory.read (l.map fun c => (0x8000 + 8 * c + 2, g c)) (0x8000 + 8 * c + 2) = g c := by
  induction l with
  | nil => cases h
  | cons d l ih =>
    rw [List.map_cons, read_cons]
    split
    · next he => rw [show c = d by omega]
    · next he => exact ih ((List.mem_cons.mp h).resolve_left fun hc => he (by rw [hc]))

theorem read_unlisted (l : List Nat) (g : Nat → Byte) (a : Nat) (h : a % 8 ≠ 2) :
    Memory.read (l.map fun c => (0x8000 + 8 * c + 2, g c)) a = 0 := by
  induction l with
  | nil => rfl
  | cons d l ih => rw [List.map_cons, read_cons, if_neg (by omega), ih]

theorem pointers_at (c : Nat) (h : c < 128) : memRead pointers (0x8000 + 8 * c) 8 = 0x10000 * (c + 1) := by
  have hu : ∀ a, a % 8 ≠ 2 → Memory.read pointers a = 0 := read_unlisted _ _
  have hl : Memory.read pointers (0x8000 + 8 * c + 1 + 1) = BitVec.ofNat 8 (c + 1) := read_listed _ _ c (List.mem_range.mpr h)
  simp only [memRead, hl]
  repeat rw [hu _ (by omega)]
  simp only [BitVec.toNat_ofNat, BitVec.ofNat_eq_ofNat]
  omega

/-- Operands of a contiguous transpose that pass its checks, for every granularity. -/
theorem witness_ContiguousTransposes :
    ∃ (s : State) (dst stride B N : Nat), dst = s.latched.arg 0 ∧ stride = s.latched.arg 1 ∧ B = s.latched.arg 2 ∧
      N = s.latched.arg 3 ∧ N ≠ 0 ∧ (∀ g ∈ [1, 8, 16, 32], N % g = 0) ∧ N ≤ stride ∧ B % 8 = 0 ∧ dst % 2 = 0 ∧
      B + 240 * N ≤ 2 ^ 64 ∧ memOk s.params B (240 * N) .read = true ∧
      (∀ c, c < 128 → dst + 2 * (c * stride + N) ≤ 2 ^ 64 ∧ memOk s.params (dst + 2 * (c * stride)) (2 * N) .write = true) ∧
      (∀ c, c < 128 → dst + 2 * (c * stride + N) ≤ B ∨ B + 240 * N ≤ dst + 2 * (c * stride)) ∧
      ∀ i, Disciplined s (effectOf i s.params s.latched) := by
  refine ⟨fresh 0x2E00 32 0x1000 32 [], 0x2E00, 32, 0x1000, 32, ?_⟩
  repeat' first | exact fun _ => raced_of_idle rfl | decide +kernel | apply And.intro

/-- Operands of a pointer-array transpose that pass its checks, for every granularity. -/
theorem witness_PointerTransposes :
    ∃ (s : State) (Q offset B N : Nat) (P : Nat → Nat), Q = s.latched.arg 0 ∧ offset = s.latched.arg 1 ∧
      B = s.latched.arg 2 ∧ N = s.latched.arg 3 ∧ (∀ c, c < 128 → P c = memRead s.latched.mem (Q + 8 * c) 8) ∧
      N ≠ 0 ∧ (∀ g ∈ [1, 8, 16, 32], N % g = 0) ∧ B % 8 = 0 ∧ Q % 8 = 0 ∧ Q + 1024 ≤ 2 ^ 64 ∧
      memOk s.params Q 1024 .read = true ∧ (∀ c, c < 128 → P c % 2 = 0) ∧ B + 240 * N ≤ 2 ^ 64 ∧
      memOk s.params B (240 * N) .read = true ∧
      (∀ c, c < 128 → P c + 2 * (offset + N) ≤ 2 ^ 64 ∧ memOk s.params (P c + 2 * offset) (2 * N) .write = true) ∧
      (∀ c, c < 128 → P c + 2 * (offset + N) ≤ B ∨ B + 240 * N ≤ P c + 2 * offset) ∧
      (∀ c, c < 128 → P c + 2 * (offset + N) ≤ Q ∨ Q + 1024 ≤ P c + 2 * offset) ∧
      (∀ c d, c < 128 → d < 128 → c ≠ d → P c + 2 * N ≤ P d ∨ P d + 2 * N ≤ P c) ∧
      ∀ i, Disciplined s (effectOf i s.params s.latched) := by
  refine ⟨fresh 0x8000 0 0x1000 32 pointers, 0x8000, 0, 0x1000, 32, fun c => 0x10000 * (c + 1), ?_⟩
  refine ⟨rfl, rfl, rfl, rfl, fun c h => (pointers_at c h).symm, ?_⟩
  repeat' first
    | exact fun _ => raced_of_idle rfl
    | (intro c d _ _ _; beta_reduce; omega)
    | decide +kernel
    | apply And.intro

/-- For every granularity, a state for each check of R193, contiguous form: one frame too many for the granularity, a stride one
below N, a misaligned base or output, a source and a last row that end in the first bytes of the register window, a last row that
ends in the first bytes of the source. -/
theorem witness_ContiguousFaultOrder :
    (∀ g ∈ [8, 16, 32], ∃ s : State, s.latched.arg 3 ≠ 0 ∧ s.latched.arg 3 % g ≠ 0) ∧
    ∀ g ∈ [1, 8, 16, 32],
      (∃ s : State, s.latched.arg 3 ≠ 0 ∧ s.latched.arg 3 % g = 0 ∧ s.latched.arg 1 < s.latched.arg 3) ∧
      (∀ ab ∈ [(0x4000, 0x1001), (0x4001, 0x1000)], ∃ s : State, s.latched.arg 3 ≠ 0 ∧ s.latched.arg 3 % g = 0 ∧
        s.latched.arg 3 ≤ s.latched.arg 1 ∧ s.latched.arg 0 = ab.1 ∧ s.latched.arg 2 = ab.2 ∧
        (s.latched.arg 2 % 8 ≠ 0 ∨ s.latched.arg 0 % 2 ≠ 0)) ∧
      (∃ s : State, s.latched.arg 3 ≠ 0 ∧ s.latched.arg 3 % g = 0 ∧ s.latched.arg 3 ≤ s.latched.arg 1 ∧
        s.latched.arg 2 % 8 = 0 ∧ s.latched.arg 0 % 2 = 0 ∧
        memOk s.params (s.latched.arg 2) (240 * s.latched.arg 3) .read = false) ∧
      (∃ s : State, s.latched.arg 3 ≠ 0 ∧ s.latched.arg 3 % g = 0 ∧ s.latched.arg 3 ≤ s.latched.arg 1 ∧
        s.latched.arg 2 % 8 = 0 ∧ s.latched.arg 0 % 2 = 0 ∧
        memOk s.params (s.latched.arg 0 + 2 * (127 * s.latched.arg 1)) (2 * s.latched.arg 3) .write = false) ∧
      ∃ s : State, s.latched.arg 3 ≠ 0 ∧ s.latched.arg 3 % g = 0 ∧ s.latched.arg 3 ≤ s.latched.arg 1 ∧
        s.latched.arg 2 % 8 = 0 ∧ s.latched.arg 0 % 2 = 0 ∧ s.latched.arg 2 + 240 * s.latched.arg 3 ≤ 2 ^ 64 ∧
        memOk s.params (s.latched.arg 2) (240 * s.latched.arg 3) .read = true ∧
        (∀ c, c < 128 → s.latched.arg 0 + 2 * (c * s.latched.arg 1 + s.latched.arg 3) ≤ 2 ^ 64 ∧
          memOk s.params (s.latched.arg 0 + 2 * (c * s.latched.arg 1)) (2 * s.latched.arg 3) .write = true) ∧
        s.latched.arg 2 < s.latched.arg 0 + 2 * (127 * s.latched.arg 1 + s.latched.arg 3) ∧
        s.latched.arg 0 + 2 * (127 * s.latched.arg 1) < s.latched.arg 2 + 240 * s.latched.arg 3 := by
  refine ⟨fun g h => ⟨fresh 0x4000 33 0x1000 33 [], ?_⟩, fun g h => ⟨⟨fresh 0x4000 31 0x1000 32 [], ?_⟩,
    fun ab h' => ⟨fresh (BitVec.ofNat 64 ab.1) 32 (BitVec.ofNat 64 ab.2) 32 [], ?_⟩,
    ⟨fresh 0x4000 32 0xFFFFFFFFFFFFE108 32 [], ?_⟩, ⟨fresh 0xFFFFFFFFFFFFDF02 32 0x1000 32 [], ?_⟩,
    ⟨fresh 0x2002 32 0x4000 32 [], ?_⟩⟩⟩
  · revert g; decide
  · revert g; decide
  · revert g ab; decide
  all_goals revert g; decide +kernel

/-- For every granularity, a state for each check of R193, pointer-array form; the rows of the last three: past 2^64, over the
frames, over one another. -/
theorem witness_PointerFaultOrder :
    (∀ g ∈ [8, 16, 32], ∃ s : State, s.latched.arg 3 ≠ 0 ∧ s.latched.arg 3 % g ≠ 0) ∧
    ∀ g ∈ [1, 8, 16, 32],
      (∀ ab ∈ [(0x8000, 0x1001), (0x8001, 0x1000)], ∃ s : State, s.latched.arg 3 ≠ 0 ∧ s.latched.arg 3 % g = 0 ∧
        s.latched.arg 0 = ab.1 ∧ s.latched.arg 2 = ab.2 ∧ (s.latched.arg 2 % 8 ≠ 0 ∨ s.latched.arg 0 % 8 ≠ 0)) ∧
      (∃ s : State, s.latched.arg 3 ≠ 0 ∧ s.latched.arg 3 % g = 0 ∧ s.latched.arg 2 % 8 = 0 ∧ s.latched.arg 0 % 8 = 0 ∧
        memOk s.params (s.latched.arg 0) 1024 .read = false) ∧
      (∃ s : State, s.latched.arg 3 ≠ 0 ∧ s.latched.arg 3 % g = 0 ∧ s.latched.arg 2 % 8 = 0 ∧ s.latched.arg 0 = 0x8000 ∧
        memOk s.params (s.latched.arg 0) 1024 .read = true ∧ memRead s.latched.mem (0x8000 + 8 * 0) 8 % 2 ≠ 0) ∧
      ∀ ob ∈ [(2 ^ 63, 0x1000), (0, 0x10038)], ∃ s : State, s.latched.arg 3 ≠ 0 ∧ s.latched.arg 3 % g = 0 ∧
        s.latched.arg 0 = 0x8000 ∧ s.latched.arg 1 = ob.1 ∧ s.latched.arg 2 = ob.2 ∧ ob.2 % 8 = 0 ∧
        memOk s.params 0x8000 1024 .read = true ∧ (∀ c, c < 128 → memRead s.latched.mem (0x8000 + 8 * c) 8 % 2 = 0) ∧
        (2 ^ 64 < memRead s.latched.mem (0x8000 + 8 * 0) 8 + 2 * (ob.1 + s.latched.arg 3) ∨
          ob.2 < memRead s.latched.mem (0x8000 + 8 * 0) 8 + 2 * (ob.1 + s.latched.arg 3) ∧
            memRead s.latched.mem (0x8000 + 8 * 0) 8 + 2 * ob.1 < ob.2 + 240 * s.latched.arg 3 ∧
            ∀ c, c < 128 → memRead s.latched.mem (0x8000 + 8 * c) 8 + 2 * (ob.1 + s.latched.arg 3) ≤ 2 ^ 64 ∧
              memOk s.params (memRead s.latched.mem (0x8000 + 8 * c) 8 + 2 * ob.1) (2 * s.latched.arg 3) .write = true) := by
  refine ⟨fun g h => ⟨fresh 0x8000 0 0x1000 33 [], ?_⟩, fun g h =>
    ⟨fun ab h' => ⟨fresh (BitVec.ofNat 64 ab.1) 0 (BitVec.ofNat 64 ab.2) 32 [], ?_⟩,
      ⟨fresh 0xFFFFFFFFFFFFFB08 0 0x1000 32 [], ?_⟩, ⟨fresh 0x8000 0 0x1000 32 [(0x8000, 1)], ?_⟩,
      fun ob h' => ⟨fresh 0x8000 (BitVec.ofNat 64 ob.1) (BitVec.ofNat 64 ob.2) 32 pointers, ?_⟩⟩⟩
  · revert g; decide
  · revert g ab; decide
  · revert g; decide +kernel
  · revert g; decide +kernel
  · have hm : (fresh 0x8000 (BitVec.ofNat 64 ob.1) (BitVec.ofNat 64 ob.2) 32 pointers).latched.mem = pointers := rfl
    have h3 : (fresh 0x8000 (BitVec.ofNat 64 ob.1) (BitVec.ofNat 64 ob.2) 32 pointers).latched.arg 3 = 32 := rfl
    have hk : ∀ c < 128, memOk params (0x10000 * (c + 1) + 2 * 0) (2 * 32) .write = true := by decide +kernel
    rw [hm, h3, pointers_at 0 (by decide)]
    refine ⟨by decide, by revert g; decide, rfl, ?_, ?_, ?_,
      show memOk params 0x8000 1024 .read = true by decide +kernel, fun c hc => by rw [pointers_at c hc]; omega, ?_⟩
    · revert ob; decide
    · revert ob; decide
    · revert ob; decide
    simp only [List.mem_cons, List.not_mem_nil, or_false] at h'
    obtain rfl | rfl := h'
    · exact .inl (by decide)
    · refine .inr ⟨by decide, by decide, fun c hc => ?_⟩
      rw [pointers_at c hc]
      exact ⟨by omega, hk c hc⟩

theorem witness_KernelsAgree :
    ∃ s : State, Memory.wf s.mem = true ∧ (∀ i, Disciplined s (effectOf i s.params s.latched)) ∧
      (∀ g ∈ [1, 8, 16, 32], s.latched.arg 3 % g = 0) ∧ (∀ i, ∃ t, exec i s = .next t) ∧ s.latched.arg 3 ≠ 0 :=
  ⟨fresh 0x8000 0 0x1000 32 pointers, pointers_wf, fun _ => raced_of_idle rfl, by decide, fun _ => ⟨_, exec_eq _ _⟩, by decide⟩

theorem pointers_pass : pointerCheckRows params pointers 0x8000 0 0x1000 32 = none := by
  have hp : ∀ c < 128, pointerAt pointers 0x8000 c = 0x10000 * (c + 1) := pointers_at
  have hr : ∀ c < 128, pointerRow pointers 0x8000 0 32 c = ⟨0x10000 * (c + 1), 64⟩ := fun c h => by
    simp [pointerRow, hp c h]
  have ha : ∀ c < 128, accessOk params (0x10000 * (c + 1)) 64 .write = true := by decide +kernel
  rw [pointerCheckRows, firstFail_none]
  simp only [List.mem_cons, List.not_mem_nil, or_false, forall_eq_or_imp, forall_eq]
  refine ⟨?_, by decide +kernel, ?_, ?_, ?_, ?_⟩
  all_goals
    simp only [rowsClash, List.any_eq_false, channels, List.mem_range]
    intro c hc
    simp only [hp c hc, hr c hc, ha c hc]
    first
      | (simp [Span.meets]; omega)
      | (intro h
         rw [List.any_eq_true] at h
         obtain ⟨d, hd, h⟩ := h
         simp only [hr d (List.mem_range.mp hd), Span.meets, Bool.and_eq_true, decide_eq_true_eq] at h
         omega)
      | simp

theorem witness_PointerArrayOfRows :
    ∃ s u t v : State, s.latched.mem = u.latched.mem ∧ s.mem = u.mem ∧ Memory.wf s.mem = true ∧ u.latched.arg 1 = 0 ∧
      s.latched.arg 2 = u.latched.arg 2 ∧ s.latched.arg 3 = u.latched.arg 3 ∧ s.latched.arg 3 = 32 ∧
      (∀ c, c < 128 → memRead u.latched.mem (u.latched.arg 0 + 8 * c) 8 =
        s.latched.arg 0 + 2 * (c * s.latched.arg 1)) ∧
      exec .trcn s = .next t ∧ t.status.err = false ∧ exec .trpn u = .next v ∧ v.status.err = false ∧
      Disciplined s (trcnEffect s.params s.latched) ∧ Disciplined u (trpnEffect u.params u.latched) := by
  refine ⟨fresh 0x10000 0x8000 0x1000 32 pointers, fresh 0x8000 0 0x1000 32 pointers, _, _, rfl, rfl, pointers_wf, rfl, rfl,
    rfl, rfl, fun c h => (pointers_at c h).trans ?_, exec_eq _ _, ?_, exec_eq _ _, ?_, raced_of_idle rfl, raced_of_idle rfl⟩
  · show _ = 0x10000 + 2 * (c * 0x8000)
    omega
  · rw [(complete_done (by rw [effectOf, trcnEffect, contigEffect_done (by decide) (by decide +kernel)]) (raced_of_idle rfl)).2.1]
    rfl
  · have hx : (fresh 0x8000 0 0x1000 32 pointers).latched.arg 0 = 0x8000 ∧ (fresh 0x8000 0 0x1000 32 pointers).latched.arg 1 = 0 ∧
        (fresh 0x8000 0 0x1000 32 pointers).latched.arg 2 = 0x1000 ∧ (fresh 0x8000 0 0x1000 32 pointers).latched.arg 3 = 32 ∧
        (fresh 0x8000 0 0x1000 32 pointers).latched.mem = pointers := ⟨rfl, rfl, rfl, rfl, rfl⟩
    obtain ⟨h0, h1, h2, h3, hm⟩ := hx
    rw [(complete_done (by
      rw [effectOf, trpnEffect, pointerEffect_done (by rw [h3]; decide) (by rw [h0, h2, h3]; decide +kernel)
        (by rw [h0, h1, h2, h3, hm]; exact pointers_pass)]) (raced_of_idle rfl)).2.1]
    rfl

/-- An area that ends at 2^64, and one a byte longer. -/
theorem witness_WinitBindsArea :
    (fresh 0xFFFFFFFFFFFFFFFC 4 0 0 []).latched.arg 0 + (fresh 0xFFFFFFFFFFFFFFFC 4 0 0 []).latched.arg 1 ≤ 2 ^ 64 ∧
      2 ^ 64 < (fresh 0xFFFFFFFFFFFFFFFC 5 0 0 []).latched.arg 0 + (fresh 0xFFFFFFFFFFFFFFFC 5 0 0 []).latched.arg 1 := by
  decide

/-- Area A44 (44 bytes) at its end, 3 bytes before it, at an inaccessible header, at an unrecognised type, with a payload that ends
one byte past the area and one that ends with it. -/
theorem witness_PayloadParse :
    (∃ o, o ≤ 44 ∧ o = 44) ∧ (∃ o, o < 44 ∧ 44 < o + params.phSize) ∧
    (0 + params.phSize ≤ 44 ∧ accessOk params (0xFFFFFFFFFFFFFF00 + 0) params.phSize .read = false) ∧
    (0 + params.phSize ≤ 4 ∧ accessOk params (0x5000 + 0) params.phSize .read = true ∧
      memRead (words 0x5000 [0x60000000]) (0x5000 + 0) params.phSize / 2 ^ params.phTypeLo % 2 ^ params.phTypeW = 6 ∧
      6 ∉ [params.tcCounter, params.tcTrigger, params.tcTimestamp, params.tcWarning, params.tcChecksum]) ∧
    ∀ size ∈ [15, 16], 0 + params.phSize ≤ size ∧ accessOk params (0x5000 + 0) params.phSize .read = true ∧
      memRead areaA44 (0x5000 + 0) params.phSize / 2 ^ params.phTypeLo % 2 ^ params.phTypeW = params.tcCounter ∧
      (size = 15 → size < 0 + params.phSize + params.szCounter) ∧ (size = 16 → 0 + params.phSize + params.szCounter ≤ size) := by
  refine ⟨⟨44, by decide⟩, ⟨41, by decide⟩, ?_⟩
  decide +kernel

theorem witness_WnextReturnsPayload :
    (walking 44 24 2 areaA44).latched.walker.wstate = .atPayload ∧
      parse params areaA44 0x5000 44 24 = .payload ⟨0x5018, 3, 0x501C, 0x789, 8, 36⟩ ∧
      Disciplined (walking 44 24 2 areaA44) (wnextEffect params (walking 44 24 2 areaA44).latched) :=
  ⟨rfl, by decide +kernel, raced_of_idle rfl⟩

/-- A state in every walker state, and one for every outcome of `parse` at its cursor: the end of the area, an unrecognised type, a
header cut short, an inaccessible header. -/
theorem witness_WnextOtherOutcomes :
    (∀ st : WState, ∃ s : State, s.latched.walker = s.walker ∧ s.walker.wstate = st ∧
      Disciplined s (wnextEffect s.params s.latched)) ∧
    ∀ r ∈ [Parse.areaEnd, .badType 6, .truncated, .busError], ∃ s : State, s.latched.walker = s.walker ∧
      s.walker.wstate = .atPayload ∧ Disciplined s (wnextEffect s.params s.latched) ∧
      r = parse s.params s.latched.mem s.walker.wbase.toNat s.walker.wsize.toNat s.walker.wcur.toNat := by
  refine ⟨fun st => ⟨{ fresh 0 0 0 0 [] with walker := ⟨st, 0x5000, 44, 0, 0⟩ }, rfl, rfl, raced_of_idle rfl⟩, fun r h => ?_⟩
  simp only [List.mem_cons, List.not_mem_nil, or_false] at h
  obtain rfl | rfl | rfl | rfl := h
  · exact ⟨walking 44 44 4 areaA44, rfl, rfl, raced_of_idle rfl, by decide +kernel⟩
  · exact ⟨walking 44 0 0 (words 0x5000 [0x60000000]), rfl, rfl, raced_of_idle rfl, by decide +kernel⟩
  · exact ⟨walking 42 41 3 areaA44, rfl, rfl, raced_of_idle rfl, by decide +kernel⟩
  · exact ⟨{ fresh 0 0 0 0 [] with walker := ⟨.atPayload, 0xFFFFFFFFFFFFFF00, 44, 0, 0⟩ }, rfl, rfl, raced_of_idle rfl,
      by decide +kernel⟩

/-- Payloads 0 and 3 of area A44, and the offset past the last. -/
theorem witness_WgetReturnsPayload :
    payloadOffset params areaA44 0x5000 44 0 = some 0 ∧ payloadOffset params areaA44 0x5000 44 3 = some 36 ∧
      parse params areaA44 0x5000 44 36 = .payload ⟨0x5024, 5, 0x5028, 0xABC, 4, 44⟩ ∧
      (walking 44 44 4 areaA44).latched.walker.wstate ≠ .none ∧
      Disciplined (walking 44 44 4 areaA44) (wgetEffect params (walking 44 44 4 areaA44).latched) := by
  refine ⟨?_, ?_, ?_, ?_, raced_of_idle rfl⟩ <;> decide +kernel

/-- Before any WINIT; and a re-scan that ends at each outcome, at the index asked for or before it. -/
theorem witness_WgetOtherOutcomes :
    (∃ s : State, s.latched.walker.wstate = .none) ∧
    ∀ rk ∈ [(Parse.areaEnd, 4), (.truncated, 3), (.badType 6, 0), (.busError, 0)], ∃ (s : State) (o : Nat),
      s.latched.walker.wstate ≠ .none ∧ rk.2 ≤ s.latched.arg 0 ∧
      payloadOffset s.params s.latched.mem s.latched.walker.wbase.toNat s.latched.walker.wsize.toNat rk.2 = some o ∧
      rk.1 = parse s.params s.latched.mem s.latched.walker.wbase.toNat s.latched.walker.wsize.toNat o ∧
      Disciplined s (wgetEffect s.params s.latched) := by
  refine ⟨⟨fresh 0 0 0 0 [], rfl⟩, fun rk h => ?_⟩
  simp only [List.mem_cons, List.not_mem_nil, or_false] at h
  obtain rfl | rfl | rfl | rfl := h
  · exact ⟨{ walking 44 44 4 areaA44 with args := #v[4, 0, 0, 0, 0, 0, 0, 0] }, 44, nofun, by decide, by decide +kernel,
      by decide +kernel, raced_of_idle rfl⟩
  · exact ⟨{ walking 43 0 0 areaA44 with args := #v[9, 0, 0, 0, 0, 0, 0, 0] }, 36, nofun, by decide, by decide +kernel,
      by decide +kernel, raced_of_idle rfl⟩
  · exact ⟨walking 44 0 0 (words 0x5000 [0x60000000]), 0, nofun, by decide, by decide +kernel, by decide +kernel,
      raced_of_idle rfl⟩
  · exact ⟨{ fresh 0 0 0 0 [] with walker := ⟨.atPayload, 0xFFFFFFFFFFFFFF00, 44, 0, 0⟩ }, 0, nofun, by decide, rfl,
      by decide +kernel, raced_of_idle rfl⟩

theorem witness_WgetAgreesWithWnext :
    ∃ s u t v : State, s.latched.mem = u.latched.mem ∧ s.latched.walker = u.latched.walker ∧ s.params = u.params ∧
      u.latched.walker.wstate ≠ .none ∧ u.latched.arg 0 = s.latched.walker.wid.toNat ∧
      payloadOffset s.params s.latched.mem s.latched.walker.wbase.toNat s.latched.walker.wsize.toNat
        s.latched.walker.wid.toNat = some s.latched.walker.wcur.toNat ∧
      exec .wnext s = .next t ∧ t.status.err = false ∧ t.status.cond = true ∧ exec .wget u = .next v ∧
      Disciplined s (wnextEffect s.params s.latched) ∧ Disciplined u (wgetEffect u.params u.latched) :=
  ⟨walking 44 24 2 areaA44, { walking 44 24 2 areaA44 with args := #v[2, 0, 0, 0, 0, 0, 0, 0] }, _, _, rfl, rfl, rfl, nofun, rfl,
    by decide +kernel, exec_eq _ _, by decide +kernel, by decide +kernel, exec_eq _ _, raced_of_idle rfl, raced_of_idle rfl⟩

/-- Stream S1 to the end of its length; its first record with length left before a header of format 3; no length at all, at an odd
base. -/
theorem witness_ScanFindsRecords :
    (∃ (s : State) (recs : List (Nat × Nat)), PassesRecords s.params s.latched.mem (s.latched.arg 0) 100 recs ∧
      s.latched.args[(1 : Fin 8)].toInt = 100 ∧ s.latched.arg 0 % 8 = 0 ∧ recs.length = 3 ∧
      (100 : Int) - recordWords recs ≤ 0 ∧ Disciplined s (scanEffect s.params s.latched)) ∧
    (∃ (s : State) (recs : List (Nat × Nat)), PassesRecords s.params s.latched.mem (s.latched.arg 0) 4 recs ∧
      s.latched.args[(1 : Fin 8)].toInt = 4 ∧ s.latched.arg 0 = 0x8000 ∧ recordWords recs = 3 ∧
      accessOk s.params (0x8000 + 8 * 3) 8 .read = true ∧ 2 < memRead s.latched.mem (0x8000 + 8 * 3) 8 % 16 ∧
      Disciplined s (scanEffect s.params s.latched)) ∧
    ∃ s : State, PassesRecords s.params s.latched.mem (s.latched.arg 0) 0 [] ∧ s.latched.args[(1 : Fin 8)].toInt = 0 ∧
      s.latched.arg 0 % 8 ≠ 0 ∧ Disciplined s (scanEffect s.params s.latched) := by
  refine ⟨⟨fresh 0x8000 100 0 0 streamS1, [(1, 3), (2, 2), (3, 121)], ?_, by decide, by decide, rfl, by decide, raced_of_idle rfl⟩,
    ⟨fresh 0x8000 4 0 0 (words 0x8000 [0x310, 0, 0, 3]), [(1, 3)], ?_, by decide, by decide, rfl, by decide +kernel,
      by decide +kernel, raced_of_idle rfl⟩,
    ⟨fresh 0x8001 0 0 0 [], trivial, by decide, by decide, raced_of_idle rfl⟩⟩
  all_goals
    simp only [PassesRecords]
    decide +kernel

/-- A misaligned base; an inaccessible header after no record; a header of length 0 after one record. -/
theorem witness_ScanFaults :
    (∃ s : State, 0 < s.latched.args[(1 : Fin 8)].toInt ∧ s.latched.arg 0 % 8 ≠ 0) ∧
    (∃ s : State, 0 < s.latched.args[(1 : Fin 8)].toInt ∧ s.latched.arg 0 % 8 = 0 ∧
      PassesRecords s.params s.latched.mem (s.latched.arg 0) s.latched.args[(1 : Fin 8)].toInt [] ∧
      accessOk s.params (s.latched.arg 0) 8 .read = false) ∧
    ∃ s : State, s.latched.arg 0 = 0x8000 ∧ (recordWords [(1, 3)] : Int) < s.latched.args[(1 : Fin 8)].toInt ∧
      PassesRecords s.params s.latched.mem (s.latched.arg 0) s.latched.args[(1 : Fin 8)].toInt [(1, 3)] ∧
      accessOk s.params (0x8000 + 8 * 3) 8 .read = true ∧ memRead s.latched.mem (0x8000 + 8 * 3) 8 % 16 ≤ 2 ∧
      headerLength s.params (memRead s.latched.mem (0x8000 + 8 * 3) 8 % 16) (memRead s.latched.mem (0x8000 + 8 * 3) 8) = 0 := by
  refine ⟨⟨fresh 0x8001 1 0 0 [], by decide, by decide⟩,
    ⟨fresh 0xFFFFFFFFFFFFFF00 1 0 0 [], by decide, by decide, trivial, by decide +kernel⟩,
    ⟨fresh 0x8000 9 0 0 (words 0x8000 [0x310, 0, 0, 0x20]), by decide, by decide, ?_, by decide +kernel⟩⟩
  simp only [PassesRecords]
  decide +kernel

theorem witness_ScanReadsInsideStream :
    (scanEffect params (fresh 0x8000 100 0 0 streamS1).latched).reads = [⟨0x8000, 8⟩, ⟨0x8018, 8⟩, ⟨0x8028, 8⟩] := by
  decide +kernel

/-- The last index TOCDSC and TOCLEN admit and the one above it; a misaligned array; descriptors in the window; a decreasing
offset. -/
theorem witness_Toc :
    (∃ x : Snapshot, x = (fresh 0x9000 2 2 0 toc).latched ∧ x.arg 1 ≤ x.arg 2 ∧ x.arg 2 ≤ x.arg 1 ∧ x.arg 0 % 4 = 0 ∧
      accessOk params (x.arg 0 + 4 * x.arg 1) 4 .read = true) ∧
    (∃ x : Snapshot, x = (fresh 0x9000 1 2 0 toc).latched ∧ x.arg 1 < x.arg 2 ∧
      accessOk params (x.arg 0 + 4 * x.arg 1) 8 .read = true ∧
      memRead x.mem (x.arg 0 + 4 * x.arg 1 + 4) 4 / 256 = memRead x.mem (x.arg 0 + 4 * x.arg 1) 4 / 256 + 60) ∧
    (∃ x : Snapshot, x = (fresh 0x9002 3 2 0 []).latched ∧ x.arg 2 < x.arg 1 ∧ x.arg 0 % 4 ≠ 0) ∧
    memOk params 0xFFFFFFFFFFFFFF00 4 .read = false ∧ memOk params 0xFFFFFFFFFFFFFEFC 8 .read = false ∧
    (∃ x : Snapshot, x = (fresh 0x9000 0 1 0 (words 0x9000 [0x0000001000003C10])).latched ∧
      memRead x.mem (x.arg 0 + 4 * x.arg 1 + 4) 4 / 256 < memRead x.mem (x.arg 0 + 4 * x.arg 1) 4 / 256) ∧
    ∀ i, Disciplined (fresh 0x9000 1 2 0 toc) (effectOf i params (fresh 0x9000 1 2 0 toc).latched) := by
  refine ⟨⟨_, rfl, ?_⟩, ⟨_, rfl, ?_⟩, ⟨_, rfl, ?_⟩, ?_, ?_, ⟨_, rfl, ?_⟩, fun _ => raced_of_idle rfl⟩ <;> decide +kernel

theorem witness_TocLengthLaw :
    ∃ s u v t t0 t1 : State, s.latched.mem = u.latched.mem ∧ s.latched.mem = v.latched.mem ∧
      s.latched.arg 0 = u.latched.arg 0 ∧ s.latched.arg 0 = v.latched.arg 0 ∧ u.latched.arg 1 = s.latched.arg 1 ∧
      v.latched.arg 1 = s.latched.arg 1 + 1 ∧ exec .toclen s = .next t ∧ t.status.err = false ∧ exec .tocdsc u = .next t0 ∧
      t0.status.err = false ∧ exec .tocdsc v = .next t1 ∧ t1.status.err = false ∧ t0.results[3] = 1 ∧
      Disciplined s (toclenEffect s.params s.latched) ∧ Disciplined u (tocdscEffect u.params u.latched) ∧
      Disciplined v (tocdscEffect v.params v.latched) :=
  ⟨fresh 0x9000 1 2 0 toc, fresh 0x9000 1 2 0 toc, fresh 0x9000 2 2 0 toc, _, _, _, rfl, rfl, rfl, rfl, rfl, rfl, exec_eq _ _,
    by decide +kernel, exec_eq _ _, by decide +kernel, exec_eq _ _, by decide +kernel, by decide +kernel, raced_of_idle rfl,
    raced_of_idle rfl, raced_of_idle rfl⟩

end Sys2Proof.Tests
end

section
/-! SUPPORT. What one step can do, said once: the host's turn, the register window, completions, and the inversion of a step. -/

namespace Sys2Proof.Machine

/-! ## The state in which an action of the host is taken -/

/-- The host's turn before its action: the actions `rest` still to come, the command in flight one turn nearer its completion
(log 4, log 5). -/
def State.heard (s : State) (rest : List HostEvent) : State := { s with pend := s.pend.map Pending.tick, inbox := rest }

section Heard
variable (s : State) (rest : List HostEvent)

@[simp] theorem heard_args : (s.heard rest).args = s.args := rfl
@[simp] theorem heard_results : (s.heard rest).results = s.results := rfl
@[simp] theorem heard_cmd : (s.heard rest).cmd = s.cmd := rfl
@[simp] theorem heard_status : (s.heard rest).status = s.status := rfl
@[simp] theorem heard_walker : (s.heard rest).walker = s.walker := rfl
@[simp] theorem heard_pend : (s.heard rest).pend = s.pend.map Pending.tick := rfl
@[simp] theorem heard_mem : (s.heard rest).mem = s.mem := rfl
@[simp] theorem heard_params : (s.heard rest).params = s.params := rfl
@[simp] theorem heard_inbox : (s.heard rest).inbox = rest := rfl
@[simp] theorem heard_replies : (s.heard rest).replies = s.replies := rfl
@[simp] theorem heard_observed : (s.heard rest).observed = s.observed := rfl
@[simp] theorem heard_draws : (s.heard rest).draws = s.draws := rfl

end Heard

theorem heard_eq_waiting {s : State} {p : Pending} (hp : s.pend = some p) :
    s.heard s.inbox = { s with pend := some p.tick } := by
  simp [State.heard, hp]

theorem heard_eq_idle {s : State} (hp : s.pend = none) : s.heard s.inbox = s := by
  obtain ⟨args, results, cmd, status, walker, pend, mem, params, inbox, replies, observed, unseen, draws⟩ := s
  subst hp
  rfl

@[simp] theorem heard_regValue (s : State) (rest : List HostEvent) (r : RegName) :
    (s.heard rest).regValue r = s.regValue r := by
  cases r <;> rfl

/-! ## Whose turn it is -/

/-- Either a command is due or it is the host's turn (log 4). -/
theorem due_or_hostTurn (s : State) : (∃ p, s.Due p) ∨ s.HostTurn := by
  by_cases h : ∃ p, s.Due p
  · exact .inl h
  · exact .inr fun p hp hd => h ⟨p, hp, hd⟩

theorem hostTurn_of_idle {s : State} (h : s.pend = none) : s.HostTurn := fun p hp => by simp [h] at hp

theorem hostTurn_of_waiting {s : State} {p : Pending} (hp : s.pend = some p) (hd : p.delay ≠ 0) : s.HostTurn := fun q hq => by
  obtain rfl : p = q := by simpa [hp] using hq
  exact hd

theorem step_hostTurn {s : State} (h : s.HostTurn) : step s = (s.heard s.inbox).hostTurn := by
  cases hp : s.pend with
  | none => rw [step_idle hp, heard_eq_idle hp]
  | some p => rw [step_waiting hp (h p hp), heard_eq_waiting hp]

theorem step_quiet {s : State} (h : s.HostTurn) (hi : s.inbox = []) : step s = .next (s.heard []) := by
  simp [step_hostTurn h, State.hostTurn, hi]

theorem step_event {s : State} {e : HostEvent} {rest : List HostEvent} (h : s.HostTurn) (hi : s.inbox = e :: rest) :
    step s = (s.heard rest).hostAct e := by
  rw [step_hostTurn h, State.hostTurn, heard_inbox, hi]
  rfl

/-- A due command is completed with the effect it has in flight (40_control R131, 30_encoding R106). -/
theorem step_completes {s : State} {p : Pending} (h : s.Due p) :
    ∃ d e, s.inFlight = some e ∧ step s = .next (s.complete d e) := by
  obtain ⟨hp, hd⟩ := h
  rw [step_due hp hd]
  rcases engineTurn_cases s p.cmd with ⟨i, hi, ht⟩ | ⟨e, he, ht⟩
  · exact ⟨_, _, by simp [State.inFlight, hp, hi, latched_of_pend hp], ht⟩
  · exact ⟨_, _, by simp [State.inFlight, hp, he], ht⟩

/-! ## Loads and stores of a register -/

theorem acquire_eq (s : State) :
    s.acquire = { s with observed := s.observed || !s.status.busy, unseen := if s.status.busy then s.unseen else [] } := by
  unfold State.acquire
  cases s.status.busy <;> simp

theorem readReg_status (s : State) : s.readReg .status = (s.answer (.reg s.status.word)).acquire := rfl

theorem readReg_of_ne_status (s : State) {r : RegName} (h : r ≠ .status) :
    s.readReg r = if r.fromEngine && (s.status.busy || !s.observed) then s.answerFree else s.answer (.reg (s.regValue r)) := by
  unfold State.readReg
  split
  · exact absurd rfl h
  · rfl

/-- A load of a register answers its value or a free one, and one of STATUS also acquires (10_state R37). -/
theorem readReg_cases (s : State) (r : RegName) :
    (r = .status ∧ s.readReg r = (s.answer (.reg s.status.word)).acquire) ∨ s.readReg r = s.answerFree ∨
      s.readReg r = s.answer (.reg (s.regValue r)) := by
  by_cases h : r = .status
  · exact .inl ⟨h, h ▸ readReg_status s⟩
  · rw [readReg_of_ne_status s h]
    split
    · exact .inr (.inl rfl)
    · exact .inr (.inr rfl)

section ReadReg
variable (s : State) (r : RegName)

/-- A load of a register changes no register and no byte. -/
theorem readReg_sameBlock : SameBlock s (s.readReg r) := by
  rcases readReg_cases s r with ⟨-, h⟩ | h | h <;> rw [h]
  · rw [acquire_eq]; exact ⟨rfl, rfl, rfl, rfl, rfl, rfl⟩
  · exact ⟨rfl, rfl, rfl, rfl, rfl, rfl⟩
  · exact ⟨rfl, rfl, rfl, rfl, rfl, rfl⟩

/-- A load of a register leaves the command in flight, the parameters and the actions to come as they are. -/
theorem readReg_latch :
    (s.readReg r).pend = s.pend ∧ (s.readReg r).params = s.params ∧ (s.readReg r).inbox = s.inbox := by
  rcases readReg_cases s r with ⟨-, h⟩ | h | h <;> rw [h]
  · rw [acquire_eq]; exact ⟨rfl, rfl, rfl⟩
  · exact ⟨rfl, rfl, rfl⟩
  · exact ⟨rfl, rfl, rfl⟩

@[simp] theorem readReg_pend : (s.readReg r).pend = s.pend := (readReg_latch s r).1
@[simp] theorem readReg_params : (s.readReg r).params = s.params := (readReg_latch s r).2.1
@[simp] theorem readReg_inbox : (s.readReg r).inbox = s.inbox := (readReg_latch s r).2.2
@[simp] theorem readReg_status_eq : (s.readReg r).status = s.status := (readReg_sameBlock s r).status
@[simp] theorem readReg_walker : (s.readReg r).walker = s.walker := (readReg_sameBlock s r).walker

/-- While BUSY = 1 no load acquires (10_state R37, 20_memory R81). -/
theorem readReg_observed_of_busy (h : s.status.busy = true) : (s.readReg r).observed = s.observed := by
  rcases readReg_cases s r with ⟨-, hr⟩ | hr | hr <;> rw [hr]
  · simp [acquire_eq, h]
  · rfl
  · rfl

/-- A register the engine writes answers a free value while it is unsettled (10_state R37). -/
theorem readReg_unsettled (hr : r.fromEngine = true) (hs : s.status.busy = true ∨ s.observed = false) :
    (s.readReg r).replies = .reg (Config.freeWord s.draws) :: s.replies := by
  have hne : r ≠ .status := fun h => by simp [h, RegName.fromEngine] at hr
  have hu : (s.status.busy || !s.observed) = true := by simpa using hs
  rw [readReg_of_ne_status s hne, hr, hu]
  rfl

/-- A settled register, or one the engine does not write, answers its value (10_state R37). -/
theorem readReg_settled (h : r.fromEngine = true → s.status.busy = false ∧ s.observed = true) :
    (s.readReg r).replies = .reg (s.regValue r) :: s.replies := by
  by_cases hst : r = .status
  · rw [hst, readReg_status, acquire_eq]
    rfl
  · rw [readReg_of_ne_status s hst, if_neg, answer_replies]
    intro hc
    simp only [Bool.and_eq_true, Bool.or_eq_true, Bool.not_eq_true'] at hc
    obtain ⟨hr, hu⟩ := hc
    simp [h hr] at hu

end ReadReg

section WriteReg
variable (s : State) (v : Word)

theorem writeReg_cmd_idle (h : s.status.busy = false) :
    s.writeReg .cmd v = { s.accept v (Config.latency s.draws) with draws := s.draws + 1 } := by
  simp [State.writeReg, h]

theorem writeReg_arg_idle (i : Fin 8) (h : s.status.busy = false) :
    s.writeReg (.arg i) v = { s with args := s.args.set i v } := by
  simp [State.writeReg, h]

/-- The registers a host store can change: CMD and A0..A7 (10_state R22, R24, R36). -/
def RegName.hostWritable : RegName → Bool
  | .cmd => true
  | .arg _ => true
  | _ => false

theorem writeReg_busy {r : RegName} (hr : r.hostWritable = true) (h : s.status.busy = true) :
    s.writeReg r v = { s with status := s.status.overrun } := by
  cases r with
  | cmd => simp [State.writeReg, h]
  | arg i => simp [State.writeReg, h]
  | _ => simp [RegName.hostWritable] at hr

theorem writeReg_readOnly {r : RegName} (hr : r.hostWritable = false) : s.writeReg r v = s := by
  cases r with
  | cmd => simp [RegName.hostWritable] at hr
  | arg i => simp [RegName.hostWritable] at hr
  | _ => rfl

/-- A store to a register is accepted as a command, overruns, replaces an argument, or is ignored (10_state R24, R29, R35, R36). -/
theorem writeReg_cases (r : RegName) :
    (s.status.busy = false ∧
      s.writeReg r v = { s.accept v (Config.latency s.draws) with draws := s.draws + 1 }) ∨
    (s.status.busy = true ∧ s.writeReg r v = { s with status := s.status.overrun }) ∨
    (s.status.busy = false ∧ ∃ i : Fin 8, s.writeReg r v = { s with args := s.args.set i v }) ∨
    s.writeReg r v = s := by
  cases hr : r.hostWritable with
  | false => exact .inr (.inr (.inr (writeReg_readOnly s v hr)))
  | true =>
    cases hb : s.status.busy with
    | true => exact .inr (.inl ⟨rfl, writeReg_busy s v hr hb⟩)
    | false =>
      cases r with
      | cmd => exact .inl ⟨rfl, writeReg_cmd_idle s v hb⟩
      | arg i => exact .inr (.inr (.inl ⟨rfl, i, writeReg_arg_idle s v i hb⟩))
      | _ => simp [RegName.hostWritable] at hr

end WriteReg

/-! ## An action of the host, by what it reaches -/

section HostAct
variable {s : State} {addr n : Nat} {bytes : List Byte} {r : RegName}

theorem hostAct_load_register (h : target s.params addr n = .register r) : s.hostAct (.load addr n) = .next (s.readReg r) := by
  simp [State.hostAct, h]

theorem hostAct_load_memory (h : target s.params addr n = .memory) : s.hostAct (.load addr n) = .next (s.loadMem addr n) := by
  simp [State.hostAct, h]

theorem hostAct_load_badWindow (h : target s.params addr n = .badWindow) :
    s.hostAct (.load addr n) = .refused .windowAccess := by
  simp [State.hostAct, h]

theorem hostAct_load_outside (h : target s.params addr n = .outside) : s.hostAct (.load addr n) = .fault .hostAddress := by
  simp [State.hostAct, h]

theorem hostAct_store_register (h : target s.params addr bytes.length = .register r) :
    s.hostAct (.store addr bytes) = .next (s.writeReg r (toWord (bytesValue bytes))) := by
  simp [State.hostAct, h]

theorem hostAct_store_memory (h : target s.params addr bytes.length = .memory) :
    s.hostAct (.store addr bytes) = .next (s.storeMem addr bytes) := by
  simp [State.hostAct, h]

theorem hostAct_store_badWindow (h : target s.params addr bytes.length = .badWindow) :
    s.hostAct (.store addr bytes) = .refused .windowAccess := by
  simp [State.hostAct, h]

theorem hostAct_store_outside (h : target s.params addr bytes.length = .outside) :
    s.hostAct (.store addr bytes) = .fault .hostAddress := by
  simp [State.hostAct, h]

end HostAct

/-! ## The inversion of a step -/

/-- All that a step answering a next state can be: the completion of the command in flight, or the host's turn with at most one
action (40_control R130, R131; log 4). -/
inductive StepTo (s : State) : State → Prop
  | completes (p : Pending) (d : List (Fin 8)) (e : Effect) (due : s.Due p) (flight : s.inFlight = some e) :
      StepTo s (s.complete d e)
  | quiet (turn : s.HostTurn) (empty : s.inbox = []) : StepTo s (s.heard [])
  | loadReg (turn : s.HostTurn) (addr n : Nat) (rest : List HostEvent) (r : RegName) (next : s.inbox = .load addr n :: rest)
      (reach : target s.params addr n = .register r) : StepTo s ((s.heard rest).readReg r)
  | loadMem (turn : s.HostTurn) (addr n : Nat) (rest : List HostEvent) (next : s.inbox = .load addr n :: rest)
      (reach : target s.params addr n = .memory) : StepTo s ((s.heard rest).loadMem addr n)
  | storeReg (turn : s.HostTurn) (addr : Nat) (bytes : List Byte) (rest : List HostEvent) (r : RegName)
      (next : s.inbox = .store addr bytes :: rest) (reach : target s.params addr bytes.length = .register r) :
      StepTo s ((s.heard rest).writeReg r (toWord (bytesValue bytes)))
  | storeMem (turn : s.HostTurn) (addr : Nat) (bytes : List Byte) (rest : List HostEvent)
      (next : s.inbox = .store addr bytes :: rest) (reach : target s.params addr bytes.length = .memory) :
      StepTo s ((s.heard rest).storeMem addr bytes)
  | resets (turn : s.HostTurn) (rest : List HostEvent) (next : s.inbox = .reset :: rest) :
      StepTo s ((s.heard rest).resetNow (s.heard rest).inFlightBytes)

/-- The ONE lemma through which a proof about every step goes. -/
theorem stepTo_of_step {s t : State} (h : step s = .next t) : StepTo s t := by
  rcases due_or_hostTurn s with ⟨p, hd⟩ | ht
  · obtain ⟨d, e, he, hs⟩ := step_completes hd
    obtain rfl : s.complete d e = t := by simpa [hs] using h
    exact .completes p d e hd he
  · rw [step_hostTurn ht] at h
    rcases hostTurn_cases h with ⟨hi, rfl⟩ | ⟨e, rest, hi, hc⟩
    · rw [heard_inbox] at hi
      rw [hi]
      exact .quiet ht hi
    · rw [heard_inbox] at hi
      rcases hc with ⟨addr, n, r, rfl, hr, rfl⟩ | ⟨addr, n, rfl, hr, rfl⟩ | ⟨addr, bytes, r, rfl, hr, rfl⟩ |
        ⟨addr, bytes, rfl, hr, rfl⟩ | ⟨rfl, rfl⟩
      · exact .loadReg ht addr n rest r hi hr
      · exact .loadMem ht addr n rest hi hr
      · exact .storeReg ht addr bytes rest r hi hr
      · exact .storeMem ht addr bytes rest hi hr
      · exact .resets ht rest hi

theorem resetNext_of_inbox {s : State} {rest : List HostEvent} (ht : s.HostTurn) (hi : s.inbox = .reset :: rest) :
    s.ResetNext := ⟨ht, by rw [hi]; rfl⟩

/-- A step with a RESET next takes it (70_reset R310). -/
theorem step_of_resetNext {s : State} (h : s.ResetNext) : ∃ rest w, step s = .next ((s.heard rest).resetNow w) := by
  obtain ⟨ht, hh⟩ := h
  obtain ⟨rest, hi⟩ := List.head?_eq_some_iff.mp hh
  exact ⟨rest, _, step_event ht hi⟩

/-! ## What a step does to STATUS and to the walker registers -/

theorem statusAfter_cases (s : State) (e : Effect) :
    (∃ c, s.statusAfter e = s.status.finished c) ∨ ∃ c, s.statusAfter e = s.status.faulted c := by
  unfold State.statusAfter
  cases e.verdict with
  | done c => exact .inl ⟨c, rfl⟩
  | fault c => exact .inr ⟨c, rfl⟩

/-- All that a step can do to STATUS (10_state R26..R30). -/
inductive StatusTo (s : State) : Status → Prop
  | kept : StatusTo s s.status
  | accepted : StatusTo s s.status.accepted
  | overrun : StatusTo s s.status.overrun
  | finished (c : Bool) : StatusTo s (s.status.finished c)
  | faulted (e : FaultCode) : StatusTo s (s.status.faulted e)
  | reset (next : s.ResetNext) : StatusTo s statusReset

theorem statusTo_of_step {s t : State} (h : step s = .next t) : StatusTo s t.status := by
  cases stepTo_of_step h with
  | completes p d e =>
    rcases statusAfter_cases s e with ⟨c, hc⟩ | ⟨c, hc⟩ <;> rw [complete_status, hc]
    · exact .finished c
    · exact .faulted c
  | quiet => exact .kept
  | loadReg _ _ _ rest r => rw [readReg_status_eq]; exact .kept
  | loadMem => exact .kept
  | storeReg _ _ bytes rest r =>
    rcases writeReg_cases (s.heard rest) (toWord (bytesValue bytes)) r with
      ⟨-, hw⟩ | ⟨-, hw⟩ | ⟨-, i, hw⟩ | hw <;> rw [hw]
    · exact .accepted
    · exact .overrun
    · exact .kept
    · exact .kept
  | storeMem => exact .kept
  | resets turn rest next => exact .reset (resetNext_of_inbox turn next)

theorem status_of_reset {s t : State} (hr : s.ResetNext) (hs : step s = .next t) : t.status = statusReset := by
  obtain ⟨rest, w, h⟩ := step_of_resetNext hr
  obtain rfl : (s.heard rest).resetNow w = t := by simpa [h] using hs
  rfl

/-- A step leaves the walker registers, resets them, or leaves what the command in flight gives (10_state R31). -/
theorem walker_of_step {s t : State} (h : step s = .next t) :
    t.walker = s.walker ∨ t.walker = walkerReset ∨
      ∃ p e, s.Due p ∧ s.inFlight = some e ∧ t.walker = s.walkerAfter e := by
  cases stepTo_of_step h with
  | completes p d e due flight => exact .inr (.inr ⟨p, e, due, flight, rfl⟩)
  | loadReg _ _ _ rest r => exact .inl (readReg_walker _ r)
  | storeReg _ _ bytes rest r =>
    rcases writeReg_cases (s.heard rest) (toWord (bytesValue bytes)) r with
      ⟨-, hw⟩ | ⟨-, hw⟩ | ⟨-, i, hw⟩ | hw <;> exact .inl (by rw [hw]; rfl)
  | resets => exact .inr (.inl rfl)
  | quiet => exact .inl rfl
  | loadMem => exact .inl rfl
  | storeMem => exact .inl rfl

/-! ## The command in flight across a host's turn -/

theorem sameInFlight_refl {s t : State} (h : t.pend = s.pend) : SameInFlight s t :=
  ⟨fun hn => by rw [h, hn], fun p hp => ⟨p, by rw [h, hp], rfl, rfl⟩⟩

theorem sameInFlight_of_ticked {s t : State} (h : t.pend = s.pend.map Pending.tick) : SameInFlight s t :=
  ⟨fun hn => by simp [h, hn], fun p hp => ⟨p.tick, by simp [h, hp], rfl, rfl⟩⟩

theorem heard_sameInFlight (s : State) (rest : List HostEvent) : SameInFlight s (s.heard rest) :=
  sameInFlight_of_ticked rfl

/-! ## The register window (10_state R34, R35) -/

/-- An aligned 8-byte access to a slot of the window reaches its register. -/
theorem target_slot (p : Params) {k : Nat} (hk : k < 32) : target p (slotAddr p k) 8 = .register (regAt k) := by
  have hfit := p.blkFits
  have hin : ¬ 2 ^ 64 < slotAddr p k + 8 := by unfold slotAddr; omega
  have hmeets : Span.meets ⟨slotAddr p k, 8⟩ (blockWindow p) = true := by
    rw [meets_iff]
    simp only [blockWindow, slotAddr]
    omega
  have hslot : 8 = 8 ∧ p.blkBase.toNat ≤ slotAddr p k ∧ slotAddr p k + 8 ≤ p.blkBase.toNat + 256 ∧
      (slotAddr p k - p.blkBase.toNat) % 8 = 0 := by unfold slotAddr; omega
  have hidx : (slotAddr p k - p.blkBase.toNat) / 8 = k := by unfold slotAddr; omega
  rw [target, if_neg hin, if_pos hmeets, if_pos hslot, hidx]

/-- An access below 2^64 that shares a byte with the window and is not one of its slots has no meaning (log 14). -/
theorem target_badWindow (p : Params) {addr n a : Nat} (hfit : addr + n ≤ 2 ^ 64) (hlo : addr ≤ a) (hhi : a < addr + n)
    (hbase : p.blkBase.toNat ≤ a) (htop : a < p.blkBase.toNat + 256) (hslot : ¬ (n = 8 ∧ ∃ k, addr = slotAddr p k)) :
    target p addr n = .badWindow := by
  have hmeets : Span.meets ⟨addr, n⟩ (blockWindow p) = true := by
    rw [meets_iff]
    simp only [blockWindow]
    omega
  rw [target, if_neg (by omega), if_pos hmeets, if_neg]
  rintro ⟨hn, hb, -, hmod⟩
  exact hslot ⟨hn, (addr - p.blkBase.toNat) / 8, by unfold slotAddr; omega⟩

/-- Only an access past the top of the address space is outside it (20_memory R60). -/
theorem lt_of_target_outside {p : Params} {addr n : Nat} (h : target p addr n = .outside) : 2 ^ 64 < addr + n := by
  unfold target at h
  split at h
  · assumption
  · split at h
    · split at h <;> cases h
    · cases h

theorem step_loadSlot {s : State} {k : Nat} {rest : List HostEvent} (ht : s.HostTurn) (hk : k < 32)
    (hi : s.inbox = .load (slotAddr s.params k) 8 :: rest) : step s = .next ((s.heard rest).readReg (regAt k)) := by
  rw [step_event ht hi]
  exact hostAct_load_register (target_slot s.params hk)

theorem step_storeSlot {s : State} {k : Nat} {bytes : List Byte} {rest : List HostEvent} (ht : s.HostTurn) (hk : k < 32)
    (hb : bytes.length = 8) (hi : s.inbox = .store (slotAddr s.params k) bytes :: rest) :
    step s = .next ((s.heard rest).writeReg (regAt k) (toWord (bytesValue bytes))) := by
  rw [step_event ht hi]
  exact hostAct_store_register (by rw [hb]; exact target_slot s.params hk)

/-! ## The slots of the window, by kind (10_state R34) -/

theorem regAt_arg (i : Fin 8) : regAt (8 + i) = .arg i := by decide +revert

theorem regAt_result (i : Fin 8) : regAt (16 + i) = .result i := by decide +revert

theorem regAt_reserved {k : Nat} (h : k = 7 ∨ 24 ≤ k ∧ k < 32) : regAt k = .reserved := by
  rcases h with rfl | ⟨hlo, hhi⟩
  · rfl
  · interval_cases k <;> rfl

/-- Slots 2..6 and 16..23 are the registers the engine writes (10_state R37). -/
theorem regAt_fromEngine {k : Nat} (h : 2 ≤ k ∧ k ≤ 6 ∨ 16 ≤ k ∧ k < 24) : (regAt k).fromEngine = true := by
  rcases h with ⟨hlo, hhi⟩ | ⟨hlo, hhi⟩ <;> interval_cases k <;> rfl

/-- Slots 0 and 8..15 are the registers a host store can change (10_state R29). -/
theorem regAt_hostWritable {k : Nat} (h : k = 0 ∨ 8 ≤ k ∧ k < 16) : (regAt k).hostWritable = true := by
  rcases h with rfl | ⟨hlo, hhi⟩
  · rfl
  · interval_cases k <;> rfl

/-- Slots 1..6 and 16..23 are read-only to the host (10_state R36). -/
theorem regAt_readOnly {k : Nat} (h : 1 ≤ k ∧ k ≤ 6 ∨ 16 ≤ k ∧ k < 24) : (regAt k).hostWritable = false := by
  rcases h with ⟨hlo, hhi⟩ | ⟨hlo, hhi⟩ <;> interval_cases k <;> rfl

end Sys2Proof.Machine
end

section
/-! SUPPORT. What the effect of a command can hold: which results, elements and walker registers each kind of command writes. -/

namespace Sys2Proof.Machine

/-! ## Effects that write results only, and effects that write elements only -/

/-- An effect that writes no byte and no walker register, and of the result registers only those of `dests`. -/
structure Effect.WritesResults (dests : List (Fin 8)) (e : Effect) : Prop where
  results : ∀ w ∈ e.results, w.1 ∈ dests
  stores : e.stores = []
  walker : e.walker = none

/-- An effect that writes no register but STATUS. -/
structure Effect.WritesElements (e : Effect) : Prop where
  results : e.results = []
  walker : e.walker = none

theorem raise_writesResults (d : List (Fin 8)) (c : FaultCode) (r : List Span) : (Effect.raise c r).WritesResults d :=
  ⟨by simp [Effect.raise], rfl, rfl⟩

theorem raise_writesElements (c : FaultCode) (r : List Span) : (Effect.raise c r).WritesElements := ⟨rfl, rfl⟩

theorem extractEffect_writesResults (width x off wid : Nat) : (extractEffect width x off wid).WritesResults bfxDests := by
  unfold extractEffect
  split
  · exact raise_writesResults ..
  · exact ⟨by simp [bfxDests], rfl, rfl⟩

theorem hdrEffect_writesResults (p : Params) (x : Snapshot) : (hdrEffect p x).WritesResults hdrDests :=
  ⟨by simp [hdrEffect, hdrDests], rfl, rfl⟩

theorem scanEffect_writesResults (p : Params) (x : Snapshot) : (scanEffect p x).WritesResults scanDests := by
  simp only [scanEffect]
  split
  · exact raise_writesResults ..
  · split
    · exact raise_writesResults ..
    · exact ⟨by simp [scanResults, scanDests], rfl, rfl⟩

theorem tocdscEffect_writesResults (p : Params) (x : Snapshot) : (tocdscEffect p x).WritesResults tocDests := by
  simp only [tocdscEffect]
  split
  · exact raise_writesResults ..
  · exact ⟨by simp [tocdscResults, tocDests], rfl, rfl⟩

theorem toclenEffect_writesResults (p : Params) (x : Snapshot) : (toclenEffect p x).WritesResults tocDests := by
  simp only [toclenEffect]
  split
  · exact raise_writesResults ..
  · split
    · exact raise_writesResults ..
    · exact ⟨by simp [toclenResults, tocDests], rfl, rfl⟩

theorem payloadResults_dests (q : Payload) (id : Nat) : ∀ w ∈ payloadResults q id, w.1 ∈ walkDests := by
  simp [payloadResults, walkDests]

theorem nullResults_dests (code id t : Nat) : ∀ w ∈ nullResults code id t, w.1 ∈ walkDests := by
  simp [nullResults, walkDests]

theorem wgetEffect_writesResults (p : Params) (x : Snapshot) : (wgetEffect p x).WritesResults walkDests := by
  have hfound (f : Found) : (wgetFound f).WritesResults walkDests := by
    unfold wgetFound
    split
    · exact ⟨payloadResults_dests _ _, rfl, rfl⟩
    · exact ⟨nullResults_dests _ _ _, rfl, rfl⟩
    · exact ⟨nullResults_dests _ _ _, rfl, rfl⟩
    · exact ⟨nullResults_dests _ _ _, rfl, rfl⟩
    · exact raise_writesResults ..
  unfold wgetEffect
  split
  · exact raise_writesResults ..
  · exact hfound _

theorem expandEffect_writesElements (p : Params) (src nin dst nout : Nat) (l : List (Nat × Half)) :
    (expandEffect p src nin dst nout l).WritesElements := by
  unfold expandEffect
  split
  · exact raise_writesElements ..
  · exact ⟨rfl, rfl⟩

theorem contigEffect_writesElements (p : Params) (x : Snapshot) (g : Nat) (l : List (Nat × Half)) :
    (contigEffect p x g l).WritesElements := by
  unfold contigEffect
  split
  · exact ⟨rfl, rfl⟩
  · split
    · exact raise_writesElements ..
    · exact ⟨rfl, rfl⟩

theorem pointerEffect_writesElements (p : Params) (x : Snapshot) (g : Nat) (l : List (Nat × Half)) :
    (pointerEffect p x g l).WritesElements := by
  unfold pointerEffect
  split
  · exact ⟨rfl, rfl⟩
  · split
    · exact raise_writesElements ..
    · split
      · exact raise_writesElements ..
      · exact ⟨rfl, rfl⟩

theorem exp128nEffect_writesElements (p : Params) (x : Snapshot) : (exp128nEffect p x).WritesElements := by
  unfold exp128nEffect
  split
  · exact ⟨rfl, rfl⟩
  · exact expandEffect_writesElements ..

/-! ## WINIT and WNEXT -/

/-- The walker registers agree with WSTATE, the cursor in an area inside the address space: `State.WalkerInv` of registers alone
(10_state R32, 45_walker R220, R222). -/
structure Walker.Coherent (w : Walker) : Prop where
  unbound : w.wstate = .none → w = walkerReset
  start : w.wstate = .atHeader → w.wcur = 0 ∧ w.wid = 0
  area : w.wbase.toNat + w.wsize.toNat ≤ 2 ^ 64
  cursor : w.wcur.toNat ≤ w.wsize.toNat

theorem walkerInv_iff {s : State} : s.WalkerInv ↔ s.walker.Coherent :=
  ⟨fun ⟨h1, h2, h3, h4⟩ => ⟨h1, h2, h3, h4⟩, fun ⟨h1, h2, h3, h4⟩ => ⟨h1, h2, h3, h4⟩⟩

theorem walkerReset_coherent : walkerReset.Coherent :=
  ⟨fun _ => rfl, fun _ => ⟨rfl, rfl⟩, by decide, by decide⟩

/-- A walk that has begun asks of the walker only the area and the cursor. -/
theorem coherent_of_walking {w : Walker} (h0 : w.wstate ≠ .none) (h1 : w.wstate ≠ .atHeader)
    (area : w.wbase.toNat + w.wsize.toNat ≤ 2 ^ 64) (cursor : w.wcur.toNat ≤ w.wsize.toNat) : w.Coherent :=
  ⟨fun h => absurd h h0, fun h => absurd h h1, area, cursor⟩

/-- What a race leaves in the walker registers stays in the area (log 8). -/
theorem scrambleWalker_coherent {w : Walker} (n : Nat) (area : w.wbase.toNat + w.wsize.toNat ≤ 2 ^ 64) :
    (scrambleWalker w n).Coherent := by
  have hstate (k : Nat) : walkChoice k ≠ .none ∧ walkChoice k ≠ .atHeader := by
    unfold walkChoice
    split <;> simp
  refine coherent_of_walking (hstate _).1 (hstate _).2 area ?_
  have hcur : (Config.freeWord n).toNat % (w.wsize.toNat + 1) ≤ w.wsize.toNat := Nat.le_of_lt_succ (Nat.mod_lt _ (by omega))
  simp only [scrambleWalker, toNat_toWord]
  exact (Nat.mod_le _ _).trans hcur

/-- A payload that `parse` returns ends inside the area (45_walker R221). -/
theorem parse_next_le {p : Params} {m : Memory} {base size o : Nat} {q : Payload} (h : parse p m base size o = .payload q) :
    q.next ≤ size := by
  simp only [parse] at h
  split at h
  · cases h
  · split at h
    · cases h
    · split at h
      · cases h
      · split at h
        · cases h
        · next sz hsz =>
          split at h
          · cases h
          · next hfit =>
            cases h
            exact Nat.le_of_not_lt hfit

theorem winitEffect_walker_coherent {x : Snapshot} {w : Walker} (h : (winitEffect x).walker = some w) : w.Coherent := by
  unfold winitEffect at h
  split at h
  · cases h
  · next harea =>
    cases h
    exact ⟨nofun, fun _ => ⟨rfl, rfl⟩, Nat.le_of_not_lt harea, Nat.zero_le _⟩

/-- The walker registers after the payload at the cursor was looked at (45_walker R223). -/
theorem wnextParsed_walker_coherent {v w : Walker} {reads : List Span} {r : Parse} (hv : v.Coherent)
    (hnext : ∀ q, r = .payload q → q.next ≤ v.wsize.toNat) (h : (wnextParsed v reads r).walker = some w) : w.Coherent := by
  cases r with
  | payload q =>
    cases h
    refine coherent_of_walking nofun nofun hv.area ?_
    rw [toNat_toWord]
    exact (Nat.mod_le _ _).trans (hnext q rfl)
  | areaEnd => cases h; exact coherent_of_walking nofun nofun hv.area hv.cursor
  | badType t => cases h; exact coherent_of_walking nofun nofun hv.area hv.cursor
  | truncated => cases h; exact coherent_of_walking nofun nofun hv.area hv.cursor
  | busError => cases h

/-- WNEXT where the walk goes on looks at the payload at the cursor (45_walker R223). -/
theorem wnextEffect_walking {p : Params} {x : Snapshot} (h : x.walker.wstate = .atHeader ∨ x.walker.wstate = .atPayload) :
    wnextEffect p x =
      wnextParsed x.walker (parseReads p x.walker.wbase.toNat x.walker.wsize.toNat x.walker.wcur.toNat)
        (parse p x.mem x.walker.wbase.toNat x.walker.wsize.toNat x.walker.wcur.toNat) := by
  rcases h with h | h <;> simp [wnextEffect, h]

theorem wnextEffect_unbound {p : Params} {x : Snapshot} (h : x.walker.wstate = .none) :
    wnextEffect p x = .raise .walkUninit := by
  simp [wnextEffect, h]

theorem wnextEffect_ended {p : Params} {x : Snapshot} (h : x.walker.wstate = .ended) :
    wnextEffect p x = wnextRepeat x.walker 1 := by
  simp [wnextEffect, h]

theorem wnextEffect_failType {p : Params} {x : Snapshot} (h : x.walker.wstate = .failType) :
    wnextEffect p x = wnextRepeat x.walker 2 := by
  simp [wnextEffect, h]

theorem wnextEffect_failTrunc {p : Params} {x : Snapshot} (h : x.walker.wstate = .failTrunc) :
    wnextEffect p x = wnextRepeat x.walker 3 := by
  simp [wnextEffect, h]

/-- A WNEXT goes on, is refused before any WINIT, or repeats how the walk ended (45_walker R223). -/
theorem wnextEffect_cases (p : Params) (x : Snapshot) :
    (∃ reads, wnextEffect p x = wnextParsed x.walker reads
      (parse p x.mem x.walker.wbase.toNat x.walker.wsize.toNat x.walker.wcur.toNat)) ∨
    wnextEffect p x = .raise .walkUninit ∨ ∃ code, wnextEffect p x = wnextRepeat x.walker code := by
  cases h : x.walker.wstate with
  | none => exact .inr (.inl (wnextEffect_unbound h))
  | atHeader => exact .inl ⟨_, wnextEffect_walking (.inl h)⟩
  | atPayload => exact .inl ⟨_, wnextEffect_walking (.inr h)⟩
  | ended => exact .inr (.inr ⟨1, wnextEffect_ended h⟩)
  | failType => exact .inr (.inr ⟨2, wnextEffect_failType h⟩)
  | failTrunc => exact .inr (.inr ⟨3, wnextEffect_failTrunc h⟩)

theorem wnextEffect_walker_coherent {p : Params} {x : Snapshot} {w : Walker} (hx : x.walker.Coherent)
    (h : (wnextEffect p x).walker = some w) : w.Coherent := by
  rcases wnextEffect_cases p x with ⟨reads, he⟩ | he | ⟨code, he⟩ <;> rw [he] at h
  · exact wnextParsed_walker_coherent hx (fun q hq => parse_next_le hq) h
  · cases h
  · cases h

/-- WNEXT writes R0..R6 and no byte (30_encoding R108, 45_walker R223). -/
theorem wnextEffect_writes (p : Params) (x : Snapshot) :
    (∀ w ∈ (wnextEffect p x).results, w.1 ∈ walkDests) ∧ (wnextEffect p x).stores = [] := by
  have hparsed (reads : List Span) (r : Parse) :
      (∀ w ∈ (wnextParsed x.walker reads r).results, w.1 ∈ walkDests) ∧ (wnextParsed x.walker reads r).stores = [] := by
    cases r with
    | payload q => exact ⟨payloadResults_dests _ _, rfl⟩
    | areaEnd => exact ⟨nullResults_dests _ _ _, rfl⟩
    | badType t => exact ⟨nullResults_dests _ _ _, rfl⟩
    | truncated => exact ⟨nullResults_dests _ _ _, rfl⟩
    | busError => exact ⟨by simp [wnextParsed, Effect.raise], rfl⟩
  rcases wnextEffect_cases p x with ⟨reads, he⟩ | he | ⟨code, he⟩ <;> rw [he]
  · exact hparsed reads _
  · exact ⟨by simp [Effect.raise], rfl⟩
  · exact ⟨nullResults_dests _ _ _, rfl⟩

/-- WINIT writes no result register and no byte (45_walker R222). -/
theorem winitEffect_writes (x : Snapshot) : (winitEffect x).results = [] ∧ (winitEffect x).stores = [] := by
  unfold winitEffect
  split <;> exact ⟨rfl, rfl⟩

/-! ## All commands -/

/-- The commands that store elements: the expansions and the transposes (43_unpack, 44_transpose). -/
def storingCommands : List Instr :=
  [.exp64, .exp128, .exp128n, .trc1, .trc8, .trc16, .trc32, .trcn, .trp1, .trp8, .trp16, .trp32, .trpn]

/-- The kinds of commands by what they write: elements, results, or the walker registers. -/
theorem effectOf_kind (i : Instr) (p : Params) (x : Snapshot) :
    (i ∈ storingCommands ∧ (effectOf i p x).WritesElements) ∨ (effectOf i p x).WritesResults (resultRegs i) ∨
      i = .winit ∨ i = .wnext := by
  cases i with
  | nop => exact .inr (.inl ⟨by simp [effectOf, nopEffect], rfl, rfl⟩)
  | bfx32 off wid => exact .inr (.inl (extractEffect_writesResults ..))
  | bfx64 off wid => exact .inr (.inl (extractEffect_writesResults ..))
  | hdr => exact .inr (.inl (hdrEffect_writesResults p x))
  | exp64 => exact .inl ⟨by simp [storingCommands], expandEffect_writesElements ..⟩
  | exp128 => exact .inl ⟨by simp [storingCommands], expandEffect_writesElements ..⟩
  | exp128n => exact .inl ⟨by simp [storingCommands], exp128nEffect_writesElements p x⟩
  | trc1 => exact .inl ⟨by simp [storingCommands], contigEffect_writesElements p x 1 (contigKernel x)⟩
  | trc8 => exact .inl ⟨by simp [storingCommands], contigEffect_writesElements p x 8 (contigKernel x)⟩
  | trc16 => exact .inl ⟨by simp [storingCommands], contigEffect_writesElements p x 16 (contigKernel x)⟩
  | trc32 => exact .inl ⟨by simp [storingCommands], contigEffect_writesElements p x 32 (contigKernel x)⟩
  | trcn =>
    exact .inl ⟨by simp [storingCommands],
      contigEffect_writesElements p x 1 (contigSplit x.mem (x.arg 2) (x.arg 0) (x.arg 1) (x.arg 3))⟩
  | trp1 => exact .inl ⟨by simp [storingCommands], pointerEffect_writesElements p x 1 (pointerKernel x)⟩
  | trp8 => exact .inl ⟨by simp [storingCommands], pointerEffect_writesElements p x 8 (pointerKernel x)⟩
  | trp16 => exact .inl ⟨by simp [storingCommands], pointerEffect_writesElements p x 16 (pointerKernel x)⟩
  | trp32 => exact .inl ⟨by simp [storingCommands], pointerEffect_writesElements p x 32 (pointerKernel x)⟩
  | trpn =>
    exact .inl ⟨by simp [storingCommands],
      pointerEffect_writesElements p x 1 (pointerSplit x.mem (x.arg 0) (x.arg 2) (x.arg 1) (x.arg 3))⟩
  | winit => exact .inr (.inr (.inl rfl))
  | wnext => exact .inr (.inr (.inr rfl))
  | wget => exact .inr (.inl (wgetEffect_writesResults p x))
  | scan => exact .inr (.inl (scanEffect_writesResults p x))
  | tocdsc => exact .inr (.inl (tocdscEffect_writesResults p x))
  | toclen => exact .inr (.inl (toclenEffect_writesResults p x))

/-- A command writes only result registers 30_encoding R108 lists for it (40_control R136). -/
theorem effectOf_results_listed (i : Instr) (p : Params) (x : Snapshot) :
    ∀ w ∈ (effectOf i p x).results, w.1 ∈ resultRegs i := by
  rcases effectOf_kind i p x with ⟨-, h⟩ | h | rfl | rfl
  · simp [h.results]
  · exact h.results
  · simp [effectOf, (winitEffect_writes x).1]
  · exact (wnextEffect_writes p x).1

/-- Only WINIT and WNEXT write the walker registers (10_state R31). -/
theorem effectOf_walker_none {i : Instr} (p : Params) (x : Snapshot) (h1 : i ≠ .winit) (h2 : i ≠ .wnext) :
    (effectOf i p x).walker = none := by
  rcases effectOf_kind i p x with ⟨-, h⟩ | h | h | h
  · exact h.walker
  · exact h.walker
  · exact absurd h h1
  · exact absurd h h2

theorem effectOf_stores_nil {i : Instr} (p : Params) (x : Snapshot) (hi : i ∉ storingCommands) :
    (effectOf i p x).stores = [] := by
  rcases effectOf_kind i p x with ⟨h, -⟩ | h | rfl | rfl
  · exact absurd h hi
  · exact h.stores
  · exact (winitEffect_writes x).2
  · exact (wnextEffect_writes p x).2

/-- From coherent walker registers every command leaves coherent ones, as far as it writes them. -/
theorem effectOf_walker_coherent {i : Instr} {p : Params} {x : Snapshot} {w : Walker} (hx : x.walker.Coherent)
    (h : (effectOf i p x).walker = some w) : w.Coherent := by
  rcases effectOf_kind i p x with ⟨-, hk⟩ | hk | rfl | rfl
  · simp [hk.walker] at h
  · simp [hk.walker] at h
  · exact winitEffect_walker_coherent h
  · exact wnextEffect_walker_coherent hx h

/-- The same of the command in flight, whose snapshot holds the walker registers of its accept; an illegal word writes none. -/
theorem inFlight_walker_coherent {s : State} {p : Pending} {e : Effect} {w : Walker} (hp : s.pend = some p)
    (he : s.inFlight = some e) (hc : p.snap.walker.Coherent) (hw : e.walker = some w) : w.Coherent := by
  simp only [State.inFlight, hp] at he
  split at he
  · cases he
    exact effectOf_walker_coherent hc hw
  · cases he
    cases hw

/-! ## The completion of an effect -/

/-- Result registers that a command does not list stay as they are, raced, faulted or neither. -/
theorem complete_sameResultsOutside {s : State} {d : List (Fin 8)} {e : Effect} (h : ∀ w ∈ e.results, w.1 ∈ d) :
    SameResultsOutside d s (s.complete d e) := by
  intro i hi
  have hwrite : (writeResults s.results e.results)[i] = s.results[i] :=
    writeResults_out _ _ _ fun w hw hc => hi (hc ▸ h w hw)
  have hdraw : (drawResults s.results s.draws d)[i] = s.results[i] := drawResults_out _ _ _ _ hi
  rw [complete_results]
  unfold State.resultsAfter
  split
  · exact hdraw
  · split
    · exact hdraw
    · exact hwrite

theorem memAfter_of_no_stores {s : State} {e : Effect} (h : e.stores = []) : s.memAfter e = s.mem := by
  unfold State.memAfter
  cases e.verdict <;> simp [Effect.writeBytes, h, applyStores, scramble]

theorem walkerAfter_of_none {s : State} {e : Effect} (h : e.walker = none) : s.walkerAfter e = s.walker := by
  unfold State.walkerAfter
  cases e.verdict <;> simp [h]

/-- The walker registers after a command: as they were, what the effect gives, or that scrambled by a race. -/
theorem walkerAfter_coherent {s : State} {e : Effect} (hs : s.walker.Coherent)
    (he : ∀ w, e.walker = some w → w.Coherent) : (s.walkerAfter e).Coherent := by
  cases hw : e.walker with
  | none => rwa [walkerAfter_of_none hw]
  | some w =>
    have hwc := he w hw
    unfold State.walkerAfter
    cases e.verdict with
    | fault c => exact hs
    | done c =>
      simp only [hw]
      split
      · exact scrambleWalker_coherent _ hwc.area
      · exact hwc

/-- A command that ends normally meets `Finished`, raced or not (40_control R131). -/
theorem complete_finished {s : State} {d : List (Fin 8)} {e : Effect} {c : Bool} (hv : e.verdict = .done c) :
    Finished s (s.complete d e) c := by
  have hst : (s.complete d e).status = s.status.finished c := by simp [State.statusAfter, hv]
  exact ⟨by rw [hst]; rfl, by rw [hst]; rfl, by rw [hst]; rfl, by rw [hst]; rfl, by rw [hst]; rfl, by rw [hst]; rfl, rfl,
    complete_untouched s d e⟩

/-- A command that faults meets `Faulted` (60_exceptions R281). -/
theorem complete_faulted {s : State} {d : List (Fin 8)} {e : Effect} {c : FaultCode} (hv : e.verdict = .fault c) :
    Faulted s (s.complete d e) c.code := by
  obtain ⟨-, hst, hw, hm⟩ := complete_fault (s := s) (d := d) hv
  exact ⟨by rw [hst]; rfl, by rw [hst]; rfl, by rw [hst]; rfl, by rw [hst]; rfl, by rw [hst]; rfl, by rw [hst]; rfl, rfl,
    complete_untouched s d e, fun a => by rw [hm], hw⟩

/-- A command that ends in a fault meets `FaultsWith`. -/
theorem faultsWith_of_verdict {i : Instr} {s : State} {c : FaultCode}
    (h : (effectOf i s.params s.latched).verdict = .fault c) : Claims.FaultsWith i s c.code :=
  ⟨_, exec_eq i s, complete_faulted h, complete_sameResultsOutside (effectOf_results_listed i _ _)⟩

/-- Writes of R0..R6 in order leave R7. -/
theorem writeResults_seven (r : Vector Word 8) (v0 v1 v2 v3 v4 v5 v6 : Word) :
    writeResults r [(0, v0), (1, v1), (2, v2), (3, v3), (4, v4), (5, v5), (6, v6)] = #v[v0, v1, v2, v3, v4, v5, v6, r[7]] := by
  refine Vector.ext fun i hi => ?_
  interval_cases i <;> simp [writeResults]

end Sys2Proof.Machine
end

section
/-! SUPPORT. The lifecycle invariant under each operation, the host's turns until a completion, its loads of the register window,
what stops the machine, WNEXT without a payload, and the bits of STATUS. -/

namespace Sys2Proof.Machine

/-! ## BUSY, PEND and the registers the host cannot write meanwhile -/

theorem State.LifecycleInv.of_idle {s : State} (hb : s.status.busy = false) (hp : s.pend = none) : s.LifecycleInv :=
  ⟨by simp [hb, hp], fun p h => by simp [hp] at h⟩

theorem State.LifecycleInv.pend_none {s : State} (h : s.LifecycleInv) (hb : s.status.busy = false) : s.pend = none := by
  by_contra hp
  simp [h.1.mpr hp] at hb

theorem State.LifecycleInv.busy {s : State} {p : Pending} (h : s.LifecycleInv) (hp : s.pend = some p) : s.status.busy = true :=
  h.1.mpr (by simp [hp])

/-- The invariant reads of STATUS nothing but BUSY, ERR, COND and ECODE, so neither an overrun nor a step that only counts the delay
or notes an access of the host breaks it (10_state R29). -/
theorem State.LifecycleInv.of_sameInFlight {s t : State} (h : s.LifecycleInv) (hf : SameInFlight s t)
    (hst : t.status = s.status ∨ t.status = s.status.overrun) (hc : t.cmd = s.cmd) (ha : t.args = s.args)
    (hw : t.walker = s.walker) (ho : s.status.busy = true → t.observed = s.observed) : t.LifecycleInv := by
  obtain ⟨hnone, hsome⟩ := hf
  have hstatus : t.status.busy = s.status.busy ∧ t.status.err = s.status.err ∧ t.status.cond = s.status.cond ∧
      t.status.ecode = s.status.ecode := by
    rcases hst with hst | hst <;> rw [hst] <;> exact ⟨rfl, rfl, rfl, rfl⟩
  obtain ⟨hbusy, herr, hcond, hcode⟩ := hstatus
  cases hp : s.pend with
  | none =>
    refine .of_idle ?_ (hnone hp)
    rw [hbusy]
    exact Bool.eq_false_iff.mpr fun hb => h.1.mp hb hp
  | some p =>
    obtain ⟨p', hp', hcmd, hsnap⟩ := hsome p hp
    obtain ⟨h1, h2, h3, h4, h5, h6, h7⟩ := h.2 p hp
    refine ⟨by simp [hbusy, h.busy hp, hp'], fun q hq => ?_⟩
    obtain rfl : p' = q := by simpa [hp'] using hq
    rw [hcmd, hsnap, hc, ha, hw, herr, hcond, hcode, ho (h.busy hp)]
    exact ⟨h1, h2, h3, h4, h5, h6, h7⟩

theorem lifecycleInv_accept (s : State) (v : Word) (n d : Nat) : State.LifecycleInv { s.accept v n with draws := d } := by
  refine ⟨by simp, fun p hp => ?_⟩
  simp only [accept_pend, Option.some.injEq] at hp
  subst hp
  exact ⟨rfl, rfl, rfl, rfl, rfl, rfl, rfl⟩

theorem lifecycleInv_complete (s : State) (d : List (Fin 8)) (e : Effect) : (s.complete d e).LifecycleInv := by
  refine .of_idle ?_ rfl
  rcases statusAfter_cases s e with ⟨c, h⟩ | ⟨c, h⟩ <;> rw [complete_status, h] <;> rfl

theorem lifecycleInv_heard {s : State} (rest : List HostEvent) (h : s.LifecycleInv) : (s.heard rest).LifecycleInv :=
  h.of_sameInFlight (heard_sameInFlight s rest) (.inl rfl) rfl rfl rfl fun _ => rfl

theorem lifecycleInv_readReg {s : State} (r : RegName) (h : s.LifecycleInv) : (s.readReg r).LifecycleInv :=
  have hb := readReg_sameBlock s r
  h.of_sameInFlight (sameInFlight_refl (readReg_pend s r)) (.inl hb.status) hb.cmd hb.args hb.walker
    (readReg_observed_of_busy s r)

theorem lifecycleInv_loadMem {s : State} (addr n : Nat) (h : s.LifecycleInv) : (s.loadMem addr n).LifecycleInv :=
  have hf : SameInFlight s (s.loadMem addr n) :=
    ⟨fun hn => by simp [hn], fun p hp => ⟨p.noteRead ⟨addr, n⟩, by simp [hp], rfl, rfl⟩⟩
  h.of_sameInFlight hf (.inl rfl) rfl rfl rfl fun _ => rfl

theorem lifecycleInv_storeMem {s : State} (addr : Nat) (bytes : List Byte) (h : s.LifecycleInv) :
    (s.storeMem addr bytes).LifecycleInv :=
  have hf : SameInFlight s (s.storeMem addr bytes) :=
    ⟨fun hn => by simp [hn], fun p hp => ⟨p.noteWrite ⟨addr, bytes.length⟩, by simp [hp], rfl, rfl⟩⟩
  h.of_sameInFlight hf (.inl rfl) rfl rfl rfl fun _ => rfl

theorem lifecycleInv_writeReg {s : State} (r : RegName) (v : Word) (h : s.LifecycleInv) : (s.writeReg r v).LifecycleInv := by
  rcases writeReg_cases s v r with ⟨-, hw⟩ | ⟨-, hw⟩ | ⟨hb, i, hw⟩ | hw <;> rw [hw]
  · exact lifecycleInv_accept ..
  · exact h.of_sameInFlight (sameInFlight_refl rfl) (.inr rfl) rfl rfl rfl fun _ => rfl
  · exact .of_idle hb (h.pend_none hb)
  · exact h

/-! ## Turns until the completion -/

/-- A plain action of the host is taken, and brings the command in flight one turn nearer its completion (40_control R131). -/
theorem step_of_plain {s : State} {p : Pending} {e : HostEvent} {rest : List HostEvent} (hb : s.status.busy = true)
    (hp : s.pend = some p) (hd : p.delay ≠ 0) (hi : s.inbox = e :: rest) (he : HostEvent.plain s.params e) :
    ∃ t q, step s = .next t ∧ t.pend = some q ∧ q.delay = p.delay - 1 ∧ t.inbox = rest ∧ t.params = s.params := by
  have ht := hostTurn_of_waiting hp hd
  have hpend : (s.heard rest).pend = some p.tick := by simp [hp]
  cases e with
  | load addr n =>
    rcases he with hm | ⟨r, hr⟩
    · exact ⟨_, p.tick.noteRead ⟨addr, n⟩, (step_event ht hi).trans (hostAct_load_memory hm),
        by rw [loadMem_pend, hpend]; rfl, rfl, rfl, rfl⟩
    · exact ⟨_, p.tick, (step_event ht hi).trans (hostAct_load_register hr), by rw [readReg_pend, hpend], rfl,
        readReg_inbox .., readReg_params ..⟩
  | store addr bytes =>
    rcases he with hm | ⟨r, hr⟩
    · exact ⟨_, p.tick.noteWrite ⟨addr, bytes.length⟩, (step_event ht hi).trans (hostAct_store_memory hm),
        by rw [storeMem_pend, hpend]; rfl, rfl, rfl, rfl⟩
    · refine ⟨_, p.tick, (step_event ht hi).trans (hostAct_store_register hr), ?_⟩
      cases hw : r.hostWritable with
      | true => rw [writeReg_busy (s.heard rest) _ hw hb]; exact ⟨hpend, rfl, rfl, rfl⟩
      | false => rw [writeReg_readOnly (s.heard rest) _ hw]; exact ⟨hpend, rfl, rfl, rfl⟩
  | reset => exact he.elim

/-- A turn in which the host has no action, or a plain one, brings the command in flight one turn nearer its completion. -/
theorem step_of_plain_inbox {s : State} {p : Pending} (hb : s.status.busy = true) (hp : s.pend = some p) (hd : p.delay ≠ 0)
    (he : ∀ e ∈ s.inbox.head?, HostEvent.plain s.params e) :
    ∃ t q, step s = .next t ∧ t.pend = some q ∧ q.delay = p.delay - 1 ∧ t.inbox = s.inbox.tail ∧ t.params = s.params := by
  cases hi : s.inbox with
  | nil =>
    exact ⟨_, p.tick, step_quiet (hostTurn_of_waiting hp hd) hi, by simp [hp], rfl, rfl, rfl⟩
  | cons e rest => exact step_of_plain hb hp hd hi (he e (by simp [hi]))

theorem run_succ_of_step {s t : State} (k : Nat) (h : step s = .next t) :
    Sys2Proof.core.run (k + 1) s = Sys2Proof.core.run k t := by
  have hc : Sys2Proof.core.step s = .next t := h
  simp only [Host.Core.run, hc]

/-! ## Loads of a slot of the window -/

/-- A load of a slot of the window changes no register, no byte and not the command in flight, and its answer is that of the
register (10_state R34, R37). -/
theorem loadSlot_keeps {s : State} {k : Nat} {reply : HostReply} {rest : List HostEvent} (ht : s.HostTurn) (hk : k < 32)
    (hi : s.inbox = .load (slotAddr s.params k) 8 :: rest)
    (hr : ((s.heard rest).readReg (regAt k)).replies = reply :: s.replies) :
    ∃ t, step s = .next t ∧ t.replies = reply :: s.replies ∧ SameBlock s t ∧ SameInFlight s t := by
  obtain ⟨h1, h2, h3, h4, h5, h6⟩ := readReg_sameBlock (s.heard rest) (regAt k)
  exact ⟨_, step_loadSlot ht hk hi, hr, ⟨h1, h2, h3, h4, h5, h6⟩, sameInFlight_of_ticked (readReg_pend ..)⟩

/-- A load of a slot that is settled, or that the engine does not write, answers the register's value (10_state R37). -/
theorem loadSlot_value {s : State} {k : Nat} {v : Word} {rest : List HostEvent} (ht : s.HostTurn) (hk : k < 32)
    (hi : s.inbox = .load (slotAddr s.params k) 8 :: rest) (hv : s.regValue (regAt k) = v)
    (hset : (regAt k).fromEngine = true → s.status.busy = false ∧ s.observed = true) :
    ∃ t, step s = .next t ∧ t.replies = .reg v :: s.replies ∧ SameBlock s t ∧ SameInFlight s t := by
  refine loadSlot_keeps ht hk hi ?_
  rw [readReg_settled (s.heard rest) _ hset, heard_regValue, hv, heard_replies]

/-! ## Stops -/

/-- Only an action past the top of the address space faults (20_memory R60). -/
theorem target_of_hostAct_fault {s : State} {e : HostEvent} {f : Fault} (h : s.hostAct e = .fault f) :
    (∃ addr n, e = .load addr n ∧ target s.params addr n = .outside) ∨
      ∃ addr bytes, e = .store addr bytes ∧ target s.params addr bytes.length = .outside := by
  cases e with
  | load addr n =>
    cases ht : target s.params addr n with
    | register r => simp [hostAct_load_register ht] at h
    | memory => simp [hostAct_load_memory ht] at h
    | badWindow => simp [hostAct_load_badWindow ht] at h
    | outside => exact .inl ⟨addr, n, rfl, ht⟩
  | store addr bytes =>
    cases ht : target s.params addr bytes.length with
    | register r => simp [hostAct_store_register ht] at h
    | memory => simp [hostAct_store_memory ht] at h
    | badWindow => simp [hostAct_store_badWindow ht] at h
    | outside => exact .inr ⟨addr, bytes, rfl, ht⟩
  | reset => cases h

/-- Only an access to the window of another width or alignment is refused (10_state R35). -/
theorem target_of_hostAct_refused {s : State} {e : HostEvent} {r : Refusal} (h : s.hostAct e = .refused r) :
    r = .windowAccess ∧ ((∃ addr n, e = .load addr n ∧ target s.params addr n = .badWindow) ∨
      ∃ addr bytes, e = .store addr bytes ∧ target s.params addr bytes.length = .badWindow) := by
  cases e with
  | load addr n =>
    cases ht : target s.params addr n with
    | register r => simp [hostAct_load_register ht] at h
    | memory => simp [hostAct_load_memory ht] at h
    | badWindow =>
      rw [hostAct_load_badWindow ht] at h
      cases h
      exact ⟨rfl, .inl ⟨addr, n, rfl, ht⟩⟩
    | outside => simp [hostAct_load_outside ht] at h
  | store addr bytes =>
    cases ht : target s.params addr bytes.length with
    | register r => simp [hostAct_store_register ht] at h
    | memory => simp [hostAct_store_memory ht] at h
    | badWindow =>
      rw [hostAct_store_badWindow ht] at h
      cases h
      exact ⟨rfl, .inr ⟨addr, bytes, rfl, ht⟩⟩
    | outside => simp [hostAct_store_outside ht] at h
  | reset => cases h

/-- A step that answers no next state is an action of the host: neither a command nor a turn without an action stops the block
(60_exceptions R281). -/
theorem hostAct_of_stop {s : State} (h : ∀ t, step s ≠ .next t) :
    s.HostTurn ∧ ∃ e rest, s.inbox = e :: rest ∧ step s = (s.heard rest).hostAct e := by
  rcases due_or_hostTurn s with ⟨p, hd⟩ | ht
  · obtain ⟨d, e, -, hs⟩ := step_completes hd
    exact absurd hs (h _)
  · cases hi : s.inbox with
    | nil => exact absurd (step_quiet ht hi) (h _)
    | cons e rest => exact ⟨ht, e, rest, rfl, step_event ht hi⟩

/-! ## WNEXT without a payload (45_walker R223, R225) -/

/-- A disciplined WNEXT whose effect is `null(code, id)` and leaves WSTATE = st ends as R223 says of that outcome. -/
theorem wnextNull_of_effect {s : State} {code id ty : Nat} {st : WState} {ow : Option Walker} {reads : List Span}
    (hd : Disciplined s (wnextEffect s.params s.latched))
    (he : wnextEffect s.params s.latched = ⟨.done false, nullResults code id ty, [], ow, reads⟩)
    (hw : ow.getD s.walker = { s.walker with wstate := st }) : Claims.WnextNull s code id ty st := by
  have hx : exec .wnext s = .next (s.complete walkDests (wnextEffect s.params s.latched)) := exec_eq .wnext s
  rw [he] at hd hx
  obtain ⟨hres, -, hwalk, hmem⟩ := complete_done (d := walkDests) rfl hd
  rw [nullResults, writeResults_seven] at hres
  refine ⟨_, hx, complete_finished rfl, ?_, by rw [nullResults, hres]; rfl, hwalk.trans hw, fun a => by rw [hmem]; rfl⟩
  unfold Claims.ResultsAre
  rw [nullResults, hres]
  exact ⟨rfl, rfl, rfl, rfl, rfl, rfl, rfl⟩

/-! ## The bits of STATUS (10_state R25) -/

/-- The codes of 60_exceptions R280 are 0x01..0x0B. -/
theorem faultCode_range (e : FaultCode) : e.code ≠ 0 ∧ e.code.toNat ≤ 11 := by
  cases e <;> decide

/-- The five one-bit fields of STATUS as a number. -/
def Status.lowBits (st : Status) : Nat :=
  bit st.busy + 2 * bit st.err + 4 * bit st.cond + 8 * bit st.ovr + 16 * bit st.fseen

theorem status_word_eq (st : Status) : st.word = toWord (2 ^ 8 * st.ecode.toNat + st.lowBits) := by
  rw [Status.word, Status.lowBits, Nat.add_comm]
  rfl

theorem bit_le_one (b : Bool) : bit b ≤ 1 := by cases b <;> decide

theorem lowBits_lt (st : Status) : st.lowBits < 2 ^ 5 := by
  have h0 := bit_le_one st.busy
  have h1 := bit_le_one st.err
  have h2 := bit_le_one st.cond
  have h3 := bit_le_one st.ovr
  have h4 := bit_le_one st.fseen
  unfold Status.lowBits
  omega

theorem lowBits_testBit (st : Status) :
    st.lowBits.testBit 0 = st.busy ∧ st.lowBits.testBit 1 = st.err ∧ st.lowBits.testBit 2 = st.cond ∧
      st.lowBits.testBit 3 = st.ovr ∧ st.lowBits.testBit 4 = st.fseen := by
  obtain ⟨busy, err, cond, ovr, fseen, ecode⟩ := st
  simp only [Status.lowBits]
  decide +revert

/-- Bit k of STATUS is a bit of the low fields below bit 8, and of ECODE from there on. -/
theorem status_word_getLsbD (st : Status) (k : Nat) :
    st.word.getLsbD k = (decide (k < 64) && if k < 8 then st.lowBits.testBit k else st.ecode.getLsbD (k - 8)) := by
  have hlow : st.lowBits < 2 ^ 8 := (lowBits_lt st).trans (by decide)
  rw [status_word_eq, toWord, BitVec.getLsbD_ofNat, Nat.testBit_two_pow_mul_add _ hlow, BitVec.getLsbD]

end Sys2Proof.Machine
end

section
/-! CERTIFICATE. The statements of the lifecycle and the register window (10_state, 40_control), of what a command may touch, and of
WNEXT without a payload (45_walker R223). -/

namespace Sys2Proof.Proofs

open Sys2Proof.Machine

/-! ## Invariants -/

/-- Settles O16: each operation a step can be keeps the invariant. -/
theorem lifecycleKept : Obligations.LifecycleKept := by
  intro s t h hs
  cases stepTo_of_step hs with
  | completes => exact lifecycleInv_complete ..
  | quiet => exact lifecycleInv_heard _ h
  | loadReg _ _ _ rest r => exact lifecycleInv_readReg r (lifecycleInv_heard rest h)
  | loadMem _ addr n rest => exact lifecycleInv_loadMem addr n (lifecycleInv_heard rest h)
  | storeReg _ _ bytes rest r => exact lifecycleInv_writeReg r _ (lifecycleInv_heard rest h)
  | storeMem _ addr bytes rest => exact lifecycleInv_storeMem addr bytes (lifecycleInv_heard rest h)
  | resets => exact .of_idle rfl rfl

/-- Settles O18: the command in flight has the walker registers as its snapshot, and what it leaves in them is coherent; every other
step keeps or resets them. -/
theorem walkerKept : Obligations.WalkerKept := by
  intro s t hl hw hs
  rw [walkerInv_iff] at hw ⊢
  rcases walker_of_step hs with ht | ht | ⟨p, e, ⟨hp, -⟩, he, ht⟩ <;> rw [ht]
  · exact hw
  · exact walkerReset_coherent
  · obtain ⟨-, -, hsnap, -⟩ := hl.2 p hp
    exact walkerAfter_coherent hw fun w => inFlight_walker_coherent hp he (hsnap ▸ hw)

/-! ## STATUS -/

/-- Settles O17: the invariant speaks of STATUS alone, so it is checked on each way a step can leave STATUS. -/
theorem statusKept : Obligations.StatusKept := by
  intro s t h hs
  have hst := statusTo_of_step hs
  unfold State.StatusInv at h ⊢
  generalize t.status = u at hst ⊢
  cases hst with
  | kept => exact h
  | overrun => exact h
  | accepted => simp
  | finished c => simp
  | faulted e => simpa using faultCode_range e
  | reset => simp [statusReset]

/-- Settles O9, by the ways a step can leave STATUS. -/
theorem faultSeenIsSticky : Obligations.FaultSeenIsSticky := by
  refine ⟨fun s t p hd hs herr => ?_, fun s t hs hf => ?_, fun s t hr hs => ?_⟩
  · obtain ⟨d, e, -, hc⟩ := step_completes hd
    obtain rfl : s.complete d e = t := by simpa [hc] using hs
    rcases statusAfter_cases s e with ⟨c, h⟩ | ⟨c, h⟩ <;> rw [complete_status, h] at herr ⊢
    · simp at herr
    · rfl
  · have hst := statusTo_of_step hs
    generalize t.status = u at hst ⊢
    cases hst with
    | reset next => exact .inr next
    | faulted => exact .inl rfl
    | _ => exact .inl hf
  · rw [status_of_reset hr hs]
    rfl

/-- Settles O8: the write, then the ways a step can leave STATUS. -/
theorem busyWritesSetOverrun : Obligations.BusyWritesSetOverrun := by
  refine ⟨fun s k bytes rest ht hb hlen hk hi => ?_, fun s t hs ho => ?_, fun s t hr hs => ?_⟩
  · have hw := writeReg_busy (s.heard rest) (toWord (bytesValue bytes)) (regAt_hostWritable hk) hb
    refine ⟨_, step_storeSlot ht (by omega) hlen hi, ?_⟩
    rw [hw]
    exact ⟨rfl, rfl, rfl, rfl, rfl, rfl, rfl, heard_sameInFlight s rest⟩
  · have hst := statusTo_of_step hs
    generalize t.status = u at hst ⊢
    cases hst with
    | reset next => exact .inr next
    | overrun => exact .inl rfl
    | _ => exact .inl ho
  · rw [status_of_reset hr hs]
    rfl

/-! ## Accept and completion -/

/-- Settles O7: slot 0 is CMD, and a store to it with BUSY = 0 is an accept. -/
theorem cmdWriteIsAccepted : Obligations.CmdWriteIsAccepted := by
  intro s bytes rest hp hb hlen hi
  have hs := step_storeSlot (hostTurn_of_idle hp) (by omega) hlen hi
  have hreg : regAt 0 = .cmd := rfl
  rw [hreg, writeReg_cmd_idle (s.heard rest) _ hb] at hs
  exact ⟨_, _, _, hs, rfl, rfl, rfl, rfl, rfl, rfl, rfl, rfl, rfl, rfl⟩

/-- Settles O15, by induction on the delay: a plain turn takes one off it and keeps the invariant of O16. -/
theorem acceptedCommandCompletes : Obligations.AcceptedCommandCompletes := by
  intro s p hl hp
  induction hn : p.delay generalizing s p with
  | zero =>
    intro _
    obtain ⟨d, e, -, hs⟩ := step_completes ⟨hp, hn⟩
    refine ⟨s.complete d e, run_succ_of_step 0 hs, rfl, ?_⟩
    exact Bool.eq_false_iff.mpr fun hb => (lifecycleInv_complete s d e).1.mp hb rfl
  | succ n ih =>
    intro he
    have hhead : ∀ e ∈ s.inbox.head?, HostEvent.plain s.params e := fun e hm =>
      he e (List.mem_of_mem_head? (by rwa [List.head?_take, if_neg (by omega)]))
    obtain ⟨t, q, hs, hq, hdelay, hinbox, hparams⟩ := step_of_plain_inbox (hl.busy hp) hp (by omega) hhead
    have htail : ∀ e ∈ t.inbox.take n, HostEvent.plain t.params e := fun e hm => by
      rw [hparams]
      exact he e (List.mem_of_mem_tail (by rwa [List.tail_take_eq_take_tail, ← hinbox]))
    rw [run_succ_of_step _ hs]
    exact ih t q (lifecycleKept s t hl hs) hq (by omega) htail

/-! ## The register window -/

/-- Settles O10, by the kind of register at the slot. -/
theorem hostRegisterWrites : Obligations.HostRegisterWrites := by
  refine ⟨fun s k bytes rest ht hlen hk hi => ?_, fun s i bytes rest ht hb hlen hi => ?_⟩
  · have hs := step_storeSlot ht (by omega) hlen hi
    rw [writeReg_readOnly _ _ (regAt_readOnly hk)] at hs
    exact ⟨_, hs, ⟨rfl, rfl, rfl, rfl, rfl, rfl⟩, heard_sameInFlight s rest, rfl, rfl⟩
  · have hs := step_storeSlot ht (by omega) hlen hi
    rw [regAt_arg, writeReg_arg_idle (s.heard rest) _ i hb] at hs
    exact ⟨_, hs, rfl, rfl, rfl, rfl, rfl, rfl, heard_sameInFlight s rest, rfl, rfl⟩

/-- Settles O11: slots 7 and 24..31 are reserved, and any other access that touches the window reaches no slot. -/
theorem windowAccessRules : Obligations.WindowAccessRules := by
  refine ⟨fun s k rest ht hk hi => ?_, fun s k bytes rest ht hk hlen hi => ?_,
    fun s addr n a rest ht hfit hlo hhi hbase htop hslot => ?_⟩
  · refine loadSlot_value ht (by omega) hi ?_ ?_ <;> rw [regAt_reserved hk]
    · rfl
    · exact nofun
  · have hs := step_storeSlot ht (by omega) hlen hi
    rw [regAt_reserved hk, writeReg_readOnly _ _ rfl] at hs
    exact ⟨_, hs, rfl, ⟨rfl, rfl, rfl, rfl, rfl, rfl⟩, heard_sameInFlight s rest⟩
  · have hbad := target_badWindow s.params hfit hlo hhi hbase htop hslot
    refine ⟨fun hi => ?_, fun bytes hlen hi => ?_⟩ <;> rw [step_event ht hi]
    · exact hostAct_load_badWindow hbad
    · exact hostAct_store_badWindow (by rw [hlen]; exact hbad)

/-- Settles O12, by whether the register at the slot is unsettled. -/
theorem registerReads : Obligations.RegisterReads := by
  refine ⟨fun s k rest ht hu hk hi => ?_, fun s k v rest ht hb ho hk hi => ?_, fun s k v rest ht hk hi => ?_⟩
  · exact loadSlot_keeps ht (by omega) hi (readReg_unsettled (s.heard rest) _ (regAt_fromEngine hk) hu)
  · have hslot : k < 32 ∧ s.regValue (regAt k) = v := by
      rcases hk with ⟨rfl, rfl⟩ | ⟨rfl, rfl⟩ | ⟨rfl, rfl⟩ | ⟨rfl, rfl⟩ | ⟨rfl, rfl⟩ | ⟨i, rfl, rfl⟩
      · exact ⟨by omega, rfl⟩
      · exact ⟨by omega, rfl⟩
      · exact ⟨by omega, rfl⟩
      · exact ⟨by omega, rfl⟩
      · exact ⟨by omega, rfl⟩
      · exact ⟨by omega, by rw [regAt_result]; rfl⟩
    exact loadSlot_value ht hslot.1 hi hslot.2 fun _ => ⟨hb, ho⟩
  · have hslot : k < 32 ∧ s.regValue (regAt k) = v ∧ (regAt k).fromEngine = false := by
      rcases hk with ⟨rfl, rfl⟩ | ⟨rfl, rfl⟩ | ⟨i, rfl, rfl⟩
      · exact ⟨by omega, rfl, rfl⟩
      · exact ⟨by omega, rfl, rfl⟩
      · rw [regAt_arg]
        exact ⟨by omega, rfl, rfl⟩
    obtain ⟨hlt, hv, he⟩ := hslot
    exact loadSlot_value ht hlt hi hv fun h => by simp [he] at h

/-! ## Stops -/

/-- Settles O22: a step that stops is an action of the host, and only two targets of it stop. -/
theorem onlyHostAccessesStop : Obligations.OnlyHostAccessesStop := by
  refine ⟨fun s f hs => ?_, fun s r hs => ?_⟩
  · obtain ⟨ht, e, rest, hi, he⟩ := hostAct_of_stop (s := s) fun t h => by simp [hs] at h
    rw [hs] at he
    refine ⟨ht, rest, ?_⟩
    rcases target_of_hostAct_fault he.symm with ⟨addr, n, rfl, hr⟩ | ⟨addr, bytes, rfl, hr⟩
    · exact .inl ⟨addr, n, hi, lt_of_target_outside hr⟩
    · exact .inr ⟨addr, bytes, hi, lt_of_target_outside hr⟩
  · obtain ⟨ht, e, rest, hi, he⟩ := hostAct_of_stop (s := s) fun t h => by simp [hs] at h
    rw [hs] at he
    obtain ⟨hw, hr⟩ := target_of_hostAct_refused he.symm
    refine ⟨hw, ht, rest, ?_⟩
    rcases hr with ⟨addr, n, rfl, hr⟩ | ⟨addr, bytes, rfl, hr⟩
    · exact .inl ⟨addr, n, hi, hr⟩
    · exact .inr ⟨addr, bytes, hi, hr⟩

/-! ## What a command may touch -/

/-- Settles O23: the frame of a completion, from what the effect of each kind of command can hold. -/
theorem commandFrame : Obligations.CommandFrame := by
  intro i s t hs
  obtain rfl : s.complete (resultRegs i) (effectOf i s.params s.latched) = t := by simpa [exec_eq] using hs
  refine ⟨complete_untouched .., complete_sameResultsOutside (effectOf_results_listed i _ _), ?_, fun h1 h2 => ?_,
    fun hi a => ?_⟩
  · rcases statusAfter_cases s (effectOf i s.params s.latched) with ⟨c, h⟩ | ⟨c, h⟩ <;> rw [complete_status, h] <;> rfl
  · exact walkerAfter_of_none (effectOf_walker_none _ _ h1 h2)
  · rw [complete_mem, memAfter_of_no_stores (effectOf_stores_nil _ _ hi)]

/-! ## WNEXT and the layout of STATUS -/

/-- Settles O51, by WSTATE and, where the walk goes on, by what is found at the cursor. -/
theorem wnextOtherOutcomes : Obligations.WnextOtherOutcomes := by
  intro s w r hx hs hd hr
  subst hx
  have hkeep {st : WState} (h : s.latched.walker.wstate = st) :
      (none : Option Walker).getD s.walker = { s.walker with wstate := st } := by rw [hs, ← h]; rfl
  have hset (st : WState) :
      (some { s.latched.walker with wstate := st }).getD s.walker = { s.walker with wstate := st } := by rw [hs]; rfl
  refine ⟨fun h => ?_, fun h => ?_, fun h => ?_, fun h => ?_, fun h => ?_⟩
  · exact faultsWith_of_verdict (c := .walkUninit) (by rw [effectOf, wnextEffect_unbound h]; rfl)
  · exact wnextNull_of_effect hd (wnextEffect_ended h) (hkeep h)
  · exact wnextNull_of_effect hd (wnextEffect_failType h) (hkeep h)
  · exact wnextNull_of_effect hd (wnextEffect_failTrunc h) (hkeep h)
  · have he := wnextEffect_walking (p := s.params) h
    rw [← hr] at he
    refine ⟨fun hp => ?_, fun ty hp => ?_, fun hp => ?_, fun hp => ?_⟩ <;> rw [hp] at he
    · exact wnextNull_of_effect hd he (hset .ended)
    · exact wnextNull_of_effect hd he (hset .failType)
    · exact wnextNull_of_effect hd he (hset .failTrunc)
    · exact faultsWith_of_verdict (c := .bus) (by rw [effectOf, he]; rfl)

/-- Settles O14: STATUS is ECODE times 2^8 plus the low fields, which are below 2^5. -/
theorem statusWordLayout : Obligations.StatusWordLayout := by
  intro st
  obtain ⟨h0, h1, h2, h3, h4⟩ := lowBits_testBit st
  simp only [status_word_getLsbD]
  refine ⟨by simpa using h0, by simpa using h1, by simpa using h2, by simpa using h3, by simpa using h4, ?_,
    fun k hlo hhi => ?_, fun k hk => ?_⟩
  · ext i hi
    rw [BitVec.getElem_extractLsb', status_word_getLsbD]
    simp [hi, show 8 + i < 64 by omega]
  · have hz : st.lowBits.testBit k = false :=
      Nat.testBit_lt_two_pow ((lowBits_lt st).trans_le (Nat.pow_le_pow_right (by omega) hlo))
    simp [hhi, hz]
  · have hz : st.ecode.getLsbD (k - 8) = false := BitVec.getLsbD_of_ge _ _ (by omega)
    simp [hz, show ¬ k < 8 by omega]

end Sys2Proof.Proofs
end

section
/-! SUPPORT. Elements a command stores: when they share no byte, what stands where they were stored, the grids of the frame commands,
and the checks the storing commands share, as statements. -/

namespace Sys2Proof.Machine

/-! ## Elements that share no byte (20_memory R65) -/

/-- Elements at these two addresses share no byte. -/
def ElementsApart (a b : Nat) : Prop := a + 2 ≤ b ∨ b + 2 ≤ a

/-- No two elements of a list share a byte. -/
def StoresApart (l : List (Nat × Half)) : Prop := l.Pairwise fun e d => ElementsApart e.1 d.1

/-- Elements indexed by different keys share no byte if their addresses are apart. -/
theorem storesApart_map {ι : Type} {keys : List ι} {addr : ι → Nat} {v : ι → Half} (hk : keys.Nodup)
    (h : ∀ i ∈ keys, ∀ j ∈ keys, i ≠ j → ElementsApart (addr i) (addr j)) :
    StoresApart (keys.map fun k => (addr k, v k)) :=
  List.pairwise_map.mpr (hk.pairwise_of_forall_ne h)

theorem mem_writeBytes {e : Effect} {a : Nat} : a ∈ e.writeBytes ↔ ∃ st ∈ e.stores, a = st.1 ∨ a = st.1 + 1 := by
  simp [Effect.writeBytes]

/-- Elements that share no byte write no byte twice (40_control R132). -/
theorem writeBytes_nodup {e : Effect} (h : StoresApart e.stores) : e.writeBytes.Nodup := by
  refine List.nodup_flatMap.mpr ⟨fun st _ => by simp, h.imp fun {st st'} hap => ?_⟩
  unfold ElementsApart at hap
  simp only [Function.onFun, List.disjoint_cons_left, List.mem_cons, List.not_mem_nil, or_false]
  exact ⟨by omega, by omega, List.disjoint_nil_left _⟩

/-- Where elements that share no byte were stored, each of them stands (20_memory R61, R65). -/
theorem memRead_applyStores {l : List (Nat × Half)} (h : StoresApart l) {a : Nat} {v : Half} (hm : (a, v) ∈ l) (m : Memory) :
    memRead (applyStores m l) a 2 = v.toNat := by
  induction l generalizing m with
  | nil => simp at hm
  | cons st rest ih =>
    obtain ⟨hhead, hrest⟩ := List.pairwise_cons.mp h
    rcases List.mem_cons.mp hm with rfl | hm
    · have hkeep : memRead (applyStores (memWrite m a 2 v.toNat) rest) a 2 = memRead (memWrite m a 2 v.toNat) a 2 := by
        refine memRead_congr fun b h1 h2 => read_applyStores_out _ _ _ fun d hd => ?_
        have hap := hhead d hd
        unfold ElementsApart at hap
        omega
      rw [applyStores, hkeep, memRead_memWrite_same]
      exact Nat.mod_eq_of_lt v.isLt
    · exact ih hrest hm _

/-! ## Grids of elements: one for each channel and frame -/

@[simp] theorem mem_channels {c : Nat} : c ∈ channels ↔ c < 128 := List.mem_range

/-- The elements of N frames, frame by frame: that of channel c and frame f at `addr c f`. -/
def gridStores (addr : Nat → Nat → Nat) (v : Nat → Nat → Half) (N : Nat) : List (Nat × Half) :=
  (List.range N).flatMap fun f => channels.map fun c => (addr c f, v c f)

theorem framesElements_eq_grid (m : Memory) (B dst N : Nat) :
    framesElements m B dst N = gridStores (fun c f => dst + 2 * (128 * f + c)) (val m B) N := rfl

theorem contigBody_eq_grid (m : Memory) (B dst stride N : Nat) :
    contigBody m B dst stride N = gridStores (contigAddr dst stride) (val m B) N := rfl

theorem pointerBody_eq_grid (m : Memory) (Q B offset N : Nat) :
    pointerBody m Q B offset N = gridStores (pointerAddr m Q offset) (val m B) N := rfl

section Grid
variable {addr addr' : Nat → Nat → Nat} {v v' : Nat → Nat → Half} {N : Nat}

theorem mem_gridStores {st : Nat × Half} :
    st ∈ gridStores addr v N ↔ ∃ c f, c < 128 ∧ f < N ∧ st = (addr c f, v c f) := by
  simp only [gridStores, List.mem_flatMap, List.mem_map, List.mem_range, mem_channels]
  exact ⟨fun ⟨f, hf, c, hc, he⟩ => ⟨c, f, hc, hf, he.symm⟩, fun ⟨c, f, hc, hf, he⟩ => ⟨f, hf, c, hc, he.symm⟩⟩

theorem gridStores_eq_map :
    gridStores addr v N = ((List.range N).product channels).map fun k => (addr k.2 k.1, v k.2 k.1) := by
  simp only [gridStores, List.product, List.map_flatMap, List.map_map, Function.comp_def]

theorem storesApart_grid
    (h : ∀ c f d g, c < 128 → f < N → d < 128 → g < N → (c ≠ d ∨ f ≠ g) → ElementsApart (addr c f) (addr d g)) :
    StoresApart (gridStores addr v N) := by
  rw [gridStores_eq_map]
  refine storesApart_map (List.nodup_range.product List.nodup_range) ?_
  rintro ⟨f, c⟩ hi ⟨g, d⟩ hj hne
  obtain ⟨hf, hc⟩ := List.mem_product.mp hi
  obtain ⟨hg, hd⟩ := List.mem_product.mp hj
  have hkey : c ≠ d ∨ f ≠ g := by
    by_contra hcon
    push Not at hcon
    exact hne (by rw [hcon.1, hcon.2])
  exact h c f d g (mem_channels.mp hc) (List.mem_range.mp hf) (mem_channels.mp hd) (List.mem_range.mp hg) hkey

theorem gridStores_congr (h : ∀ c f, c < 128 → f < N → addr c f = addr' c f ∧ v c f = v' c f) :
    gridStores addr v N = gridStores addr' v' N := by
  refine List.flatMap_congr fun f hf => List.map_congr_left fun c hc => ?_
  obtain ⟨ha, hv⟩ := h c f (mem_channels.mp hc) (List.mem_range.mp hf)
  rw [ha, hv]

end Grid

/-! ## TRCN and TRPN: the blocks of the decomposition are the frames in order (44_transpose R198, R203) -/

/-- Consecutive blocks visit consecutive frames. -/
theorem flatMap_blocks {α : Type} (g : Nat → List α) (start size n : Nat) :
    ((List.range n).flatMap fun b => (List.range size).flatMap fun f => g (start + size * b + f)) =
      (List.range' start (size * n)).flatMap g := by
  induction n with
  | zero => rfl
  | succ n ih =>
    have hblock : (List.range size).flatMap (fun f => g (start + size * n + f)) =
        (List.range' (start + size * n) size).flatMap g := by
      rw [List.range'_eq_map_range, List.flatMap_map]
    rw [List.range_succ, List.flatMap_append, ih, List.flatMap_singleton, hblock, ← List.flatMap_append,
      List.range'_append_1, Nat.mul_succ]

/-- Blocks of 32, then of 8, then single frames are all N frames. -/
theorem flatMap_split {α : Type} (g : Nat → List α) (N : Nat) :
    (List.range' 0 (32 * (N / 32))).flatMap g ++ (List.range' (32 * (N / 32)) (8 * (N % 32 / 8))).flatMap g ++
      (List.range' (32 * (N / 32) + 8 * (N % 32 / 8)) (1 * (N % 8))).flatMap g = (List.range N).flatMap g := by
  have hN : 32 * (N / 32) + 8 * (N % 32 / 8) + 1 * (N % 8) = N := by omega
  have h1 := List.range'_append_1 (s := 0) (m := 32 * (N / 32)) (n := 8 * (N % 32 / 8))
  have h2 := List.range'_append_1 (s := 0) (m := 32 * (N / 32) + 8 * (N % 32 / 8)) (n := 1 * (N % 8))
  simp only [Nat.zero_add] at h1 h2
  rw [← List.flatMap_append, h1, ← List.flatMap_append, h2, hN, List.range_eq_range']

theorem val_shift (m : Memory) (B k c f : Nat) : val m (B + 240 * k) c f = val m B c (k + f) := by
  rw [val, val, Nat.add_assoc, ← Nat.mul_add]

theorem contigBlocks_eq (m : Memory) (B dst stride start size n : Nat) :
    contigBlocks m B dst stride start size n =
      (List.range' start (size * n)).flatMap fun f => channels.map fun c => (contigAddr dst stride c f, val m B c f) := by
  rw [← flatMap_blocks]
  refine List.flatMap_congr fun b _ => List.flatMap_congr fun f _ => List.map_congr_left fun c _ => ?_
  rw [val_shift, contigAddr, contigAddr]
  congr 1
  omega

theorem pointerBlocks_eq (m : Memory) (Q B offset start size n : Nat) :
    pointerBlocks m Q B offset start size n =
      (List.range' start (size * n)).flatMap fun f =>
        channels.map fun c => (pointerAddr m Q offset c f, val m B c f) := by
  rw [← flatMap_blocks]
  refine List.flatMap_congr fun b _ => List.flatMap_congr fun f _ => List.map_congr_left fun c _ => ?_
  rw [val_shift, pointerAddr, pointerAddr, Nat.add_assoc offset]

/-- TRCN stores what the scalar kernel stores, in the same order (44_transpose R198). -/
theorem contigSplit_eq_body (m : Memory) (B dst stride N : Nat) :
    contigSplit m B dst stride N = contigBody m B dst stride N := by
  rw [contigSplit, contigBlocks_eq, contigBlocks_eq, contigBlocks_eq]
  exact flatMap_split _ N

/-- TRPN stores what the scalar kernel stores, in the same order (44_transpose R203). -/
theorem pointerSplit_eq_body (m : Memory) (Q B offset N : Nat) :
    pointerSplit m Q B offset N = pointerBody m Q B offset N := by
  rw [pointerSplit, pointerBlocks_eq, pointerBlocks_eq, pointerBlocks_eq]
  exact flatMap_split _ N

theorem trcnEffect_eq_kernel (p : Params) (x : Snapshot) : trcnEffect p x = contigEffect p x 1 (contigKernel x) := by
  rw [trcnEffect, contigSplit_eq_body, contigKernel]

theorem trpnEffect_eq_kernel (p : Params) (x : Snapshot) : trpnEffect p x = pointerEffect p x 1 (pointerKernel x) := by
  rw [trpnEffect, pointerSplit_eq_body, pointerKernel]

/-! ## EXP128N -/

/-- With N = 0 EXP128N does nothing (43_unpack R175). -/
theorem exp128nEffect_empty {p : Params} {x : Snapshot} (h0 : x.arg 3 = 0) :
    exp128nEffect p x = { verdict := .done false } := if_pos h0

theorem exp128nEffect_frames {p : Params} {x : Snapshot} (h0 : x.arg 3 ≠ 0) :
    exp128nEffect p x = expandEffect p (x.arg 2) (240 * x.arg 3) (x.arg 0) (256 * x.arg 3)
      (framesElements x.mem (x.arg 2) (x.arg 0) (x.arg 3)) := if_neg h0

/-! ## The checks of the storing commands, passed -/

/-- The checks of an expansion pass (43_unpack R172). -/
theorem expCheck_none {p : Params} {src nin dst nout : Nat} :
    expCheck p src nin dst nout = none ↔
      src % 8 = 0 ∧ dst % 2 = 0 ∧ accessOk p src nin .read = true ∧ accessOk p dst nout .write = true ∧
        Span.meets ⟨src, nin⟩ ⟨dst, nout⟩ = false := by
  simp [expCheck, firstFail_none, and_assoc]

/-- The checks of a contiguous transpose pass (44_transpose R193). -/
theorem contigCheck_none {p : Params} {g dst stride B N : Nat} :
    contigCheck p g dst stride B N = none ↔
      N % g = 0 ∧ N ≤ stride ∧ B % 8 = 0 ∧ dst % 2 = 0 ∧ accessOk p B (240 * N) .read = true ∧
        (∀ c, c < 128 → accessOk p (dst + 2 * (c * stride)) (2 * N) .write = true) ∧
          ∀ c, c < 128 → Span.meets (contigRow dst stride N c) ⟨B, 240 * N⟩ = false := by
  simp [contigCheck, firstFail_none, contigRow]

/-- The checks of a pointer-array transpose before the pointers are read pass (44_transpose R193). -/
theorem pointerCheckArray_none {p : Params} {g Q B N : Nat} :
    pointerCheckArray p g Q B N = none ↔ N % g = 0 ∧ B % 8 = 0 ∧ Q % 8 = 0 ∧ accessOk p Q 1024 .read = true := by
  simp [pointerCheckArray, firstFail_none]

theorem rowsClash_false {row : Nat → Span} :
    rowsClash row = false ↔ ∀ c, c < 128 → ∀ d, d < 128 → c ≠ d → Span.meets (row c) (row d) = false := by
  simp only [rowsClash, List.any_eq_false, mem_channels, Bool.and_eq_true, decide_eq_true_eq, not_exists, not_and,
    Bool.not_eq_true, List.any_eq_true]
  exact ⟨fun h c hc d hd hne => h c hc d hd (Ne.symm hne), fun h c hc d hd hne => h c hc d hd (Ne.symm hne)⟩

/-- The checks of a pointer-array transpose on the rows pass (44_transpose R193). -/
theorem pointerCheckRows_none {p : Params} {m : Memory} {Q offset B N : Nat} :
    pointerCheckRows p m Q offset B N = none ↔
      (∀ c, c < 128 → pointerAt m Q c % 2 = 0) ∧ accessOk p B (240 * N) .read = true ∧
        (∀ c, c < 128 → accessOk p (pointerAt m Q c + 2 * offset) (2 * N) .write = true) ∧
        (∀ c, c < 128 → Span.meets (pointerRow m Q offset N c) ⟨B, 240 * N⟩ = false) ∧
        (∀ c, c < 128 → Span.meets (pointerRow m Q offset N c) ⟨Q, 1024⟩ = false) ∧
          rowsClash (pointerRow m Q offset N) = false := by
  simp [pointerCheckRows, firstFail_none, pointerRow]

end Sys2Proof.Machine
end

section
/-! SUPPORT. The commands that read memory, case by case: the payload at an offset, the re-scan of WGET, the records of SCAN, the
descriptors of TOCDSC and TOCLEN. -/

namespace Sys2Proof.Machine

/-! ## The payload at an offset (45_walker R221) -/

section ParseCases
variable {p : Params} {m : Memory} {base size o : Nat}

theorem parse_areaEnd (h : o = size) : parse p m base size o = .areaEnd := by simp [parse, h]

theorem parse_headerPastEnd (h1 : o ≠ size) (h2 : size < o + p.phSize) : parse p m base size o = .truncated := by
  simp [parse, h1, h2]

theorem parse_busError (h1 : o + p.phSize ≤ size) (h2 : accessOk p (base + o) p.phSize .read = false) :
    parse p m base size o = .busError := by
  have hph := p.phSizeRange
  simp [parse, show o ≠ size by omega, Nat.not_lt.mpr h1, h2]

theorem parse_badType {t : Nat} (h1 : o + p.phSize ≤ size) (h2 : accessOk p (base + o) p.phSize .read = true)
    (ht : fld (memRead m (base + o) p.phSize) p.phTypeLo p.phTypeW = t) (hs : bodySize p t = none) :
    parse p m base size o = .badType t := by
  have hph := p.phSizeRange
  simp [parse, show o ≠ size by omega, Nat.not_lt.mpr h1, h2, ht, hs]

theorem parse_bodyPastEnd {t sz : Nat} (h1 : o + p.phSize ≤ size) (h2 : accessOk p (base + o) p.phSize .read = true)
    (ht : fld (memRead m (base + o) p.phSize) p.phTypeLo p.phTypeW = t) (hs : bodySize p t = some sz)
    (hlong : size < o + p.phSize + sz) : parse p m base size o = .truncated := by
  have hph := p.phSizeRange
  simp [parse, show o ≠ size by omega, Nat.not_lt.mpr h1, h2, ht, hs, hlong]

theorem parse_payload {t sz : Nat} (h1 : o + p.phSize ≤ size) (h2 : accessOk p (base + o) p.phSize .read = true)
    (ht : fld (memRead m (base + o) p.phSize) p.phTypeLo p.phTypeW = t) (hs : bodySize p t = some sz)
    (hfit : o + p.phSize + sz ≤ size) :
    parse p m base size o = .payload
      ⟨base + o, t, base + o + p.phSize, fld (memRead m (base + o) p.phSize) p.phTsLo 28, sz, o + p.phSize + sz⟩ := by
  have hph := p.phSizeRange
  simp [parse, show o ≠ size by omega, Nat.not_lt.mpr h1, h2, ht, hs, Nat.not_lt.mpr hfit]

/-- A payload's header is read exactly if it lies in the area and is accessible (log 19). -/
theorem parseReads_header (h1 : o + p.phSize ≤ size) (h2 : accessOk p (base + o) p.phSize .read = true) :
    parseReads p base size o = [⟨base + o, p.phSize⟩] := by
  have hph := p.phSizeRange
  simp [parseReads, show o ≠ size by omega, Nat.not_lt.mpr h1, h2]

theorem parseReads_unread (h : ¬ (o + p.phSize ≤ size ∧ accessOk p (base + o) p.phSize .read = true)) :
    parseReads p base size o = [] := by
  unfold parseReads
  split
  · rfl
  · split
    · rfl
    · next hin => rw [if_pos (by simpa using fun hok => h ⟨Nat.not_lt.mp hin, hok⟩)]

/-- Where no header is read, the outcome does not depend on memory. -/
theorem parse_unread (h : ¬ (o + p.phSize ≤ size ∧ accessOk p (base + o) p.phSize .read = true)) (m' : Memory) :
    parse p m base size o = parse p m' base size o := by
  by_cases hend : o = size
  · rw [parse_areaEnd hend, parse_areaEnd hend]
  · by_cases hin : o + p.phSize ≤ size
    · have hok : accessOk p (base + o) p.phSize .read = false := Bool.eq_false_iff.mpr fun hok => h ⟨hin, hok⟩
      rw [parse_busError hin hok, parse_busError hin hok]
    · rw [parse_headerPastEnd hend (by omega), parse_headerPastEnd hend (by omega)]

end ParseCases

/-- The body size of each recognised type is that of 20_memory R78: the type codes are distinct. -/
theorem bodySize_of_code {p : Params} {t sz : Nat}
    (h : t = p.tcCounter ∧ sz = p.szCounter ∨ t = p.tcTrigger ∧ sz = p.szTrigger ∨ t = p.tcTimestamp ∧ sz = p.szTimestamp ∨
      t = p.tcWarning ∧ sz = p.szWarning ∨ t = p.tcChecksum ∧ sz = p.szChecksum) : bodySize p t = some sz := by
  have hcodes := p.typeCodesDistinct
  simp only [List.nodup_cons, List.mem_cons, List.not_mem_nil, or_false, not_or] at hcodes
  obtain ⟨⟨h12, h13, h14, h15⟩, ⟨h23, h24, h25⟩, ⟨h34, h35⟩, h45, -⟩ := hcodes
  rcases h with ⟨rfl, rfl⟩ | ⟨rfl, rfl⟩ | ⟨rfl, rfl⟩ | ⟨rfl, rfl⟩ | ⟨rfl, rfl⟩
  · simp [bodySize]
  · simp [bodySize, Ne.symm h12]
  · simp [bodySize, Ne.symm h13, Ne.symm h23]
  · simp [bodySize, Ne.symm h14, Ne.symm h24, Ne.symm h34]
  · simp [bodySize, Ne.symm h15, Ne.symm h25, Ne.symm h35, Ne.symm h45]

theorem bodySize_of_unknown {p : Params} {t : Nat}
    (h : t ∉ [p.tcCounter, p.tcTrigger, p.tcTimestamp, p.tcWarning, p.tcChecksum]) : bodySize p t = none := by
  simp only [List.mem_cons, List.not_mem_nil, or_false, not_or] at h
  obtain ⟨h1, h2, h3, h4, h5⟩ := h
  simp [bodySize, h1, h2, h3, h4, h5]

/-! ## The re-scan of WGET (45_walker R224) -/

section SeekCases
variable {p : Params} {m : Memory} {base size j fuel o k : Nat}

theorem seek_found {q : Payload} (h : parse p m base size o = .payload q) (hk : k = j) :
    seek p m base size j (fuel + 1) o k = ⟨.payload q, k, parseReads p base size o⟩ := by
  simp [seek, h, hk]

theorem seek_next {q : Payload} (h : parse p m base size o = .payload q) (hk : k ≠ j) :
    seek p m base size j (fuel + 1) o k =
      { seek p m base size j fuel q.next (k + 1) with
        reads := parseReads p base size o ++ (seek p m base size j fuel q.next (k + 1)).reads } := by
  simp [seek, h, hk]

theorem seek_stops (h : ∀ q, parse p m base size o ≠ .payload q) :
    seek p m base size j (fuel + 1) o k = ⟨parse p m base size o, k, parseReads p base size o⟩ := by
  cases hp : parse p m base size o with
  | payload q => exact absurd hp (h q)
  | _ => simp [seek, hp]

end SeekCases

theorem wgetFound_reads (f : Found) : (wgetFound f).reads = f.reads := by
  unfold wgetFound
  split <;> rfl

theorem wgetEffect_unbound {p : Params} {x : Snapshot} (h : x.walker.wstate = .none) :
    wgetEffect p x = .raise .walkUninit := by
  simp [wgetEffect, h]

theorem wgetEffect_bound {p : Params} {x : Snapshot} (h : x.walker.wstate ≠ .none) :
    wgetEffect p x = wgetFound
      (seek p x.mem x.walker.wbase.toNat x.walker.wsize.toNat (x.arg 0) (x.walker.wsize.toNat + 1) 0 0) := by
  cases hw : x.walker.wstate with
  | none => exact absurd hw h
  | _ => simp [wgetEffect, hw]

theorem wnextParsed_reads (w : Walker) (reads : List Span) (r : Parse) : (wnextParsed w reads r).reads = reads := by
  cases r <;> rfl

/-! ## The loop of SCAN (46_container R250) -/

section ScanCases
variable {q : Params} {m : Memory} {fuel : Nat} {st : ScanState}

theorem scanLoop_empty (h : st.rem ≤ 0) : scanLoop q m fuel st = ⟨.finished st none, []⟩ := by
  cases fuel <;> simp [scanLoop, h]

theorem scanLoop_bus (h : 0 < st.rem) (ha : accessOk q st.p 8 .read = false) :
    scanLoop q m (fuel + 1) st = ⟨.fault .bus, []⟩ := by
  simp [scanLoop, Int.not_le.mpr h, ha]

theorem scanLoop_stop (h : 0 < st.rem) (ha : accessOk q st.p 8 .read = true) (hf : 2 < headerFormat (memRead m st.p 8)) :
    scanLoop q m (fuel + 1) st = ⟨.finished st (some (headerFormat (memRead m st.p 8))), [⟨st.p, 8⟩]⟩ := by
  simp [scanLoop, Int.not_le.mpr h, ha, hf]

theorem scanLoop_zero (h : 0 < st.rem) (ha : accessOk q st.p 8 .read = true) (hf : headerFormat (memRead m st.p 8) ≤ 2)
    (hn : headerLength q (headerFormat (memRead m st.p 8)) (memRead m st.p 8) = 0) :
    scanLoop q m (fuel + 1) st = ⟨.fault .zeroLen, [⟨st.p, 8⟩]⟩ := by
  simp [scanLoop, Int.not_le.mpr h, ha, Nat.not_lt.mpr hf, hn]

/-- The variables after the record whose header is `h`. -/
def ScanState.passHeader (q : Params) (st : ScanState) (h : Nat) : ScanState :=
  st.pass q (headerType h) (headerLength q (headerFormat h) h)

theorem scanLoop_pass (h : 0 < st.rem) (ha : accessOk q st.p 8 .read = true) (hf : headerFormat (memRead m st.p 8) ≤ 2)
    (hn : headerLength q (headerFormat (memRead m st.p 8)) (memRead m st.p 8) ≠ 0) :
    scanLoop q m (fuel + 1) st =
      { scanLoop q m fuel (st.passHeader q (memRead m st.p 8)) with
        reads := ⟨st.p, 8⟩ :: (scanLoop q m fuel (st.passHeader q (memRead m st.p 8))).reads } := by
  simp [scanLoop, Int.not_le.mpr h, ha, Nat.not_lt.mpr hf, hn, ScanState.passHeader]

end ScanCases

/-- Where a scan ends, as the effect of SCAN. -/
def scanEnded (r : Scanned) : Effect :=
  match r.last with
  | .fault e => .raise e r.reads
  | .finished final stop => { verdict := .done stop.isNone, results := scanResults final stop, reads := r.reads }

theorem scanEnded_reads (r : Scanned) : (scanEnded r).reads = r.reads := by
  unfold scanEnded
  split <;> rfl

theorem scanEffect_misaligned {q : Params} {x : Snapshot} (h : 0 < (scanStart x).rem ∧ (scanStart x).p % 8 ≠ 0) :
    scanEffect q x = .raise .align := by
  simp only [scanEffect, if_pos h]

theorem scanEffect_runs {q : Params} {x : Snapshot} (h : ¬ (0 < (scanStart x).rem ∧ (scanStart x).p % 8 ≠ 0)) :
    scanEffect q x = scanEnded (scanLoop q x.mem (scanStart x).rem.toNat (scanStart x)) := by
  simp only [scanEffect, if_neg h]
  rfl

/-! ## The descriptors of TOCDSC and TOCLEN (46_container R253, R254) -/

/-- The checks of a descriptor access of n bytes at `a`: the index, the alignment of the array, the access. -/
def tocCheck (p : Params) (past : Bool) (D a n : Nat) : Option FaultCode :=
  firstFail [(past, .tocIndex), (decide (D % 4 ≠ 0), .align), (!accessOk p a n .read, .bus)]

theorem tocCheck_index {p : Params} {D a n : Nat} : tocCheck p true D a n = some .tocIndex := rfl

theorem tocCheck_align {p : Params} {D a n : Nat} (h : D % 4 ≠ 0) : tocCheck p false D a n = some .align := by
  simp [tocCheck, firstFail, h]

theorem tocCheck_bus {p : Params} {D a n : Nat} (h : D % 4 = 0) (ha : accessOk p a n .read = false) :
    tocCheck p false D a n = some .bus := by
  simp [tocCheck, firstFail, h, ha]

theorem tocCheck_none {p : Params} {past : Bool} {D a n : Nat} :
    tocCheck p past D a n = none ↔ past = false ∧ D % 4 = 0 ∧ accessOk p a n .read = true := by
  simp [tocCheck, firstFail_none]

/-- The checks of TOCDSC (46_container R253). -/
def tocdscCheck (p : Params) (x : Snapshot) : Option FaultCode :=
  tocCheck p (decide (x.arg 2 < x.arg 1)) (x.arg 0) (descAddr (x.arg 0) (x.arg 1)) 4

/-- The checks of TOCLEN before the descriptors are read (46_container R254). -/
def toclenCheck (p : Params) (x : Snapshot) : Option FaultCode :=
  tocCheck p (decide (x.arg 2 ≤ x.arg 1)) (x.arg 0) (descAddr (x.arg 0) (x.arg 1)) 8

theorem tocdscEffect_fault {p : Params} {x : Snapshot} {e : FaultCode} (h : tocdscCheck p x = some e) :
    tocdscEffect p x = .raise e := by
  unfold tocdscCheck tocCheck at h
  simp only [tocdscEffect, h]

theorem tocdscEffect_done {p : Params} {x : Snapshot} {a d : Nat} (h : tocdscCheck p x = none)
    (ha : descAddr (x.arg 0) (x.arg 1) = a) (hd : memRead x.mem a 4 = d) :
    tocdscEffect p x =
      { verdict := .done (decide (descType d = 1)), results := tocdscResults (x.arg 3) d, reads := [⟨a, 4⟩] } := by
  unfold tocdscCheck tocCheck at h
  subst ha hd
  simp only [tocdscEffect, h]

theorem toclenEffect_fault {p : Params} {x : Snapshot} {e : FaultCode} (h : toclenCheck p x = some e) :
    toclenEffect p x = .raise e := by
  unfold toclenCheck tocCheck at h
  simp only [toclenEffect, h]

theorem toclenEffect_order {p : Params} {x : Snapshot} {a d0 d1 : Nat} (h : toclenCheck p x = none)
    (ha : descAddr (x.arg 0) (x.arg 1) = a) (h0 : memRead x.mem a 4 = d0) (h1 : memRead x.mem (a + 4) 4 = d1)
    (hlt : descOffset d1 < descOffset d0) : toclenEffect p x = .raise .tocOrder [⟨a, 8⟩] := by
  unfold toclenCheck tocCheck at h
  subst ha
  simp only [toclenEffect, h, h0, h1, if_pos hlt]

theorem toclenEffect_done {p : Params} {x : Snapshot} {a d0 d1 len : Nat} (h : toclenCheck p x = none)
    (ha : descAddr (x.arg 0) (x.arg 1) = a) (h0 : memRead x.mem a 4 = d0) (h1 : memRead x.mem (a + 4) 4 = d1)
    (hlen : descOffset d1 = descOffset d0 + len) :
    toclenEffect p x =
      { verdict := .done (decide (descType d0 = 1) && decide (len % 30 = 0)), results := toclenResults (x.arg 3) d0 len,
        reads := [⟨a, 8⟩] } := by
  unfold toclenCheck tocCheck at h
  subst ha
  have hge : ¬ descOffset d1 < descOffset d0 := by omega
  have hsub : descOffset d1 - descOffset d0 = len := by omega
  simp only [toclenEffect, h, h0, h1, if_neg hge, hsub]

end Sys2Proof.Machine
end

section
/-! SUPPORT. Where the bytes of a command lie: every byte it reads or writes is admitted by MEM_OK, and it writes none it reads and
none twice (20_memory R60, R63, 40_control R132). -/

namespace Sys2Proof.Machine

/-! ## Admitted ranges -/

/-- A range below 2^64 that shares no byte with the register window (20_memory R60, R63). -/
structure Span.Admitted (p : Params) (r : Span) : Prop where
  top : r.base + r.len ≤ 2 ^ 64
  window : r.base + r.len ≤ p.blkBase.toNat ∨ p.blkBase.toNat + 256 ≤ r.base

/-- An access the engine may make is to an admitted range. -/
theorem admitted_of_accessOk {p : Params} {a n : Nat} {k : AccessKind} (h : accessOk p a n k = true) (hn : 0 < n) :
    Span.Admitted p ⟨a, n⟩ := by
  obtain ⟨htop, hok⟩ := accessOk_iff.mp h
  have hw : ¬ Span.meets ⟨a, n⟩ (blockWindow p) = true := by simp [memOk_window hok]
  rw [meets_iff] at hw
  simp only [blockWindow] at hw
  refine ⟨htop, ?_⟩
  show a + n ≤ p.blkBase.toNat ∨ p.blkBase.toNat + 256 ≤ a
  omega

theorem Span.Admitted.sub {p : Params} {r : Span} {a n : Nat} (h : r.Admitted p) (hlo : r.base ≤ a)
    (hhi : a + n ≤ r.base + r.len) : Span.Admitted p ⟨a, n⟩ := by
  obtain ⟨htop, hwin⟩ := h
  refine ⟨?_, ?_⟩
  · show a + n ≤ 2 ^ 64
    omega
  · show a + n ≤ p.blkBase.toNat ∨ p.blkBase.toNat + 256 ≤ a
    omega

/-! ## Confined effects -/

/-- What holds of the bytes of every command: those read and written are admitted, no byte is written twice, none is read and
written (20_memory R60, R63, 40_control R132). -/
structure Effect.Confined (p : Params) (e : Effect) : Prop where
  apart : StoresApart e.stores
  unread : ∀ r ∈ e.reads, ∀ a ∈ e.writeBytes, ¬ (r.base ≤ a ∧ a < r.base + r.len)
  reads : ∀ r ∈ e.reads, r.Admitted p
  writes : ∀ r ∈ e.writeSpans, r.Admitted p

/-- Of an effect without elements only the bytes it reads are in question. -/
theorem confined_of_no_stores {p : Params} {e : Effect} (h : e.stores = []) (hr : ∀ r ∈ e.reads, r.Admitted p) :
    e.Confined p := by
  refine ⟨?_, ?_, hr, ?_⟩
  · rw [h]; exact List.Pairwise.nil
  · simp [mem_writeBytes, h]
  · simp [Effect.writeSpans, h]

theorem raise_confined {p : Params} {c : FaultCode} {l : List Span} (h : ∀ r ∈ l, r.Admitted p) :
    (Effect.raise c l).Confined p := confined_of_no_stores rfl h

theorem raise_nothing_confined (p : Params) (c : FaultCode) : (Effect.raise c).Confined p := raise_confined (by simp)

theorem empty_confined (p : Params) (v : Verdict) : Effect.Confined p { verdict := v } := confined_of_no_stores rfl (by simp)

/-- Elements that stand in admitted rows, none of which meets a range read, make a confined effect. -/
theorem confined_of_rows {p : Params} {e : Effect} (hs : StoresApart e.stores) (hr : ∀ r ∈ e.reads, r.Admitted p)
    (hrow : ∀ st ∈ e.stores, ∃ row : Span, row.Admitted p ∧ row.base ≤ st.1 ∧ st.1 + 2 ≤ row.base + row.len ∧
      ∀ r ∈ e.reads, Span.meets row r = false) : e.Confined p := by
  refine ⟨hs, fun r hmem a ha hin => ?_, hr, fun w hw => ?_⟩
  · obtain ⟨st, hst, hat⟩ := mem_writeBytes.mp ha
    obtain ⟨row, -, hlo, hhi, hmeets⟩ := hrow st hst
    have hcon : Span.meets row r = true := meets_iff.mpr (by omega)
    rw [hmeets r hmem] at hcon
    cases hcon
  · obtain ⟨st, hst, rfl⟩ := List.mem_map.mp hw
    obtain ⟨row, hrow, hlo, hhi, -⟩ := hrow st hst
    exact hrow.sub hlo hhi

/-! ## The storing commands -/

/-- An expansion is confined if its elements share no byte and stand in the destination (43_unpack R172). -/
theorem expandEffect_confined {p : Params} {src nin dst nout : Nat} {l : List (Nat × Half)} (hin : 0 < nin) (hout : 0 < nout)
    (ha : StoresApart l) (hl : ∀ st ∈ l, dst ≤ st.1 ∧ st.1 + 2 ≤ dst + nout) :
    (expandEffect p src nin dst nout l).Confined p := by
  cases hc : expCheck p src nin dst nout with
  | some e => rw [expandEffect_fault hc]; exact raise_nothing_confined p e
  | none =>
    obtain ⟨-, -, hsrc, hdst, hmeets⟩ := expCheck_none.mp hc
    rw [expandEffect_done hc]
    refine confined_of_rows ha (fun r hr => ?_) fun st hst => ⟨⟨dst, nout⟩, admitted_of_accessOk hdst hout, (hl st hst).1,
      (hl st hst).2, fun r hr => ?_⟩ <;> obtain rfl := List.mem_singleton.mp hr
    · exact admitted_of_accessOk hsrc hin
    · rw [Bool.eq_false_iff, Ne, meets_iff] at hmeets ⊢
      omega

theorem streamElements_apart (m : Memory) (S dst : Nat) : StoresApart (streamElements m S dst) :=
  storesApart_map List.nodup_range fun i _ j _ hne => by unfold ElementsApart; omega

theorem frameElements_apart (m : Memory) (F dst : Nat) : StoresApart (frameElements m F dst) :=
  storesApart_map List.nodup_range fun i _ j _ hne => by unfold ElementsApart; omega

theorem framesElements_apart (m : Memory) (B dst N : Nat) : StoresApart (framesElements m B dst N) := by
  rw [framesElements_eq_grid]
  refine storesApart_grid fun c f d g hc hf hd hg hne => ?_
  unfold ElementsApart
  omega

theorem exp64Effect_confined (p : Params) (x : Snapshot) : (exp64Effect p x).Confined p := by
  refine expandEffect_confined (by omega) (by omega) (streamElements_apart ..) fun st hst => ?_
  obtain ⟨k, hk, rfl⟩ := List.mem_map.mp hst
  have hk := List.mem_range.mp hk
  dsimp only
  omega

theorem exp128Effect_confined (p : Params) (x : Snapshot) : (exp128Effect p x).Confined p := by
  refine expandEffect_confined (by omega) (by omega) (frameElements_apart ..) fun st hst => ?_
  obtain ⟨c, hc, rfl⟩ := List.mem_map.mp hst
  have hc := mem_channels.mp hc
  dsimp only
  omega

theorem exp128nEffect_confined (p : Params) (x : Snapshot) : (exp128nEffect p x).Confined p := by
  by_cases h0 : x.arg 3 = 0
  · rw [exp128nEffect_empty h0]; exact empty_confined p _
  · rw [exp128nEffect_frames h0]
    refine expandEffect_confined (by omega) (by omega) (framesElements_apart ..) fun st hst => ?_
    rw [framesElements_eq_grid] at hst
    obtain ⟨c, f, hc, hf, rfl⟩ := mem_gridStores.mp hst
    dsimp only
    omega

/-- The rows of two channels are a stride apart at least. -/
theorem mul_stride_le {c d : Nat} (stride : Nat) (h : c < d) : c * stride + stride ≤ d * stride := by
  rw [← Nat.succ_mul]
  exact Nat.mul_le_mul_right stride h

/-- The elements of a contiguous transpose share no byte if the rows do not overlap (44_transpose R191). -/
theorem contigBody_apart (m : Memory) (B dst : Nat) {stride N : Nat} (h : N ≤ stride) :
    StoresApart (contigBody m B dst stride N) := by
  rw [contigBody_eq_grid]
  refine storesApart_grid fun c f d g hc hf hd hg hne => ?_
  unfold ElementsApart contigAddr
  rcases Nat.lt_trichotomy c d with hlt | rfl | hlt
  · have := mul_stride_le stride hlt
    omega
  · omega
  · have := mul_stride_le stride hlt
    omega

/-- Every contiguous transpose is confined: its elements stand in the rows that were checked (44_transpose R193). -/
theorem contigEffect_confined (p : Params) (x : Snapshot) (g : Nat) : (contigEffect p x g (contigKernel x)).Confined p := by
  by_cases h0 : x.arg 3 = 0
  · rw [contigEffect_none h0]; exact empty_confined p _
  · cases hc : contigCheck p g (x.arg 0) (x.arg 1) (x.arg 2) (x.arg 3) with
    | some e => rw [contigEffect_fault h0 hc]; exact raise_nothing_confined p e
    | none =>
      obtain ⟨-, hstride, -, -, hsrc, hrows, hmeets⟩ := contigCheck_none.mp hc
      rw [contigEffect_done h0 hc]
      refine confined_of_rows (contigBody_apart _ _ _ hstride) (fun r hr => ?_) fun st hst => ?_
      · obtain rfl := List.mem_singleton.mp hr
        exact admitted_of_accessOk hsrc (by omega)
      · obtain ⟨c, f, hc, hf, rfl⟩ := mem_gridStores.mp hst
        refine ⟨contigRow (x.arg 0) (x.arg 1) (x.arg 3) c, admitted_of_accessOk (hrows c hc) (by omega), ?_, ?_, fun r hr => ?_⟩
        · show x.arg 0 + 2 * (c * x.arg 1) ≤ x.arg 0 + 2 * (c * x.arg 1 + f)
          omega
        · show x.arg 0 + 2 * (c * x.arg 1 + f) + 2 ≤ x.arg 0 + 2 * (c * x.arg 1) + 2 * x.arg 3
          omega
        · obtain rfl := List.mem_singleton.mp hr
          exact hmeets c hc

/-- The elements of a pointer-array transpose share no byte if the rows do not (44_transpose R192, R193). -/
theorem pointerBody_apart {m : Memory} {Q offset N : Nat} (B : Nat) (h : rowsClash (pointerRow m Q offset N) = false) :
    StoresApart (pointerBody m Q B offset N) := by
  rw [pointerBody_eq_grid]
  refine storesApart_grid fun c f d g hc hf hd hg hne => ?_
  unfold ElementsApart pointerAddr
  by_cases hcd : c = d
  · subst hcd
    omega
  · have hrow := rowsClash_false.mp h c hc d hd hcd
    rw [Bool.eq_false_iff, Ne, meets_iff] at hrow
    simp only [pointerRow] at hrow
    omega

/-- Every pointer-array transpose is confined: its elements stand in the rows that were checked (44_transpose R193). -/
theorem pointerEffect_confined (p : Params) (x : Snapshot) (g : Nat) :
    (pointerEffect p x g (pointerKernel x)).Confined p := by
  by_cases h0 : x.arg 3 = 0
  · rw [pointerEffect_none h0]; exact empty_confined p _
  · cases h1 : pointerCheckArray p g (x.arg 0) (x.arg 2) (x.arg 3) with
    | some e => rw [pointerEffect_array_fault h0 h1]; exact raise_nothing_confined p e
    | none =>
      obtain ⟨-, -, -, harray⟩ := pointerCheckArray_none.mp h1
      have hQ : Span.Admitted p ⟨x.arg 0, 1024⟩ := admitted_of_accessOk harray (by omega)
      cases h2 : pointerCheckRows p x.mem (x.arg 0) (x.arg 1) (x.arg 2) (x.arg 3) with
      | some e => rw [pointerEffect_rows_fault h0 h1 h2]; exact raise_confined (by simpa using hQ)
      | none =>
        obtain ⟨-, hsrc, hrows, hmeetsB, hmeetsQ, hclash⟩ := pointerCheckRows_none.mp h2
        have hB : Span.Admitted p ⟨x.arg 2, 240 * x.arg 3⟩ := admitted_of_accessOk hsrc (by omega)
        rw [pointerEffect_done h0 h1 h2]
        refine confined_of_rows (pointerBody_apart _ hclash) (by simpa using ⟨hQ, hB⟩) fun st hst => ?_
        obtain ⟨c, f, hc, hf, rfl⟩ := mem_gridStores.mp hst
        refine ⟨pointerRow x.mem (x.arg 0) (x.arg 1) (x.arg 3) c, admitted_of_accessOk (hrows c hc) (by omega), ?_, ?_,
          by simpa using ⟨hmeetsQ c hc, hmeetsB c hc⟩⟩
        · show pointerAt x.mem (x.arg 0) c + 2 * x.arg 1 ≤ pointerAt x.mem (x.arg 0) c + 2 * (x.arg 1 + f)
          omega
        · show pointerAt x.mem (x.arg 0) c + 2 * (x.arg 1 + f) + 2 ≤
            pointerAt x.mem (x.arg 0) c + 2 * x.arg 1 + 2 * x.arg 3
          omega

/-! ## The reading commands -/

/-- The header `parse` reads is accessible (45_walker R221). -/
theorem parseReads_admitted (p : Params) (base size o : Nat) : ∀ r ∈ parseReads p base size o, r.Admitted p := by
  by_cases h : o + p.phSize ≤ size ∧ accessOk p (base + o) p.phSize .read = true
  · obtain ⟨hin, hok⟩ := h
    have hph := p.phSizeRange
    simpa [parseReads_header hin hok] using admitted_of_accessOk hok (by omega)
  · simp [parseReads_unread h]

theorem seek_reads_admitted (p : Params) (m : Memory) (base size j fuel o k : Nat) :
    ∀ r ∈ (seek p m base size j fuel o k).reads, r.Admitted p := by
  induction fuel generalizing o k with
  | zero => simp [seek]
  | succ fuel ih =>
    have hhere := parseReads_admitted p base size o
    cases hp : parse p m base size o with
    | payload q =>
      by_cases hk : k = j
      · rw [seek_found hp hk]; exact hhere
      · rw [seek_next hp hk]
        intro r hr
        rcases List.mem_append.mp hr with hr | hr
        · exact hhere r hr
        · exact ih _ _ r hr
    | _ => rw [seek_stops (by simp [hp])]; exact hhere

theorem scanLoop_reads_admitted (q : Params) (m : Memory) (fuel : Nat) (st : ScanState) :
    ∀ r ∈ (scanLoop q m fuel st).reads, r.Admitted q := by
  induction fuel generalizing st with
  | zero => simp [scanLoop]
  | succ fuel ih =>
    by_cases hrem : st.rem ≤ 0
    · simp [scanLoop_empty hrem]
    have hrem : 0 < st.rem := Int.not_le.mp hrem
    cases hok : accessOk q st.p 8 .read with
    | false => simp [scanLoop_bus hrem hok]
    | true =>
      have hhere : Span.Admitted q ⟨st.p, 8⟩ := admitted_of_accessOk hok (by omega)
      by_cases hf : 2 < headerFormat (memRead m st.p 8)
      · simpa [scanLoop_stop hrem hok hf] using hhere
      have hf := Nat.not_lt.mp hf
      by_cases hn : headerLength q (headerFormat (memRead m st.p 8)) (memRead m st.p 8) = 0
      · simpa [scanLoop_zero hrem hok hf hn] using hhere
      · rw [scanLoop_pass hrem hok hf hn]
        intro r hr
        rcases List.mem_cons.mp hr with rfl | hr
        · exact hhere
        · exact ih _ r hr

theorem wnextEffect_reads_admitted (p : Params) (x : Snapshot) : ∀ r ∈ (wnextEffect p x).reads, r.Admitted p := by
  have hparsed (r : Parse) :
      ∀ s ∈ (wnextParsed x.walker (parseReads p x.walker.wbase.toNat x.walker.wsize.toNat x.walker.wcur.toNat) r).reads,
        s.Admitted p := by
    rw [wnextParsed_reads]
    exact parseReads_admitted _ _ _ _
  cases h : x.walker.wstate with
  | none => simp [wnextEffect_unbound h, Effect.raise]
  | atHeader => rw [wnextEffect_walking (.inl h)]; exact hparsed _
  | atPayload => rw [wnextEffect_walking (.inr h)]; exact hparsed _
  | ended => simp [wnextEffect_ended h, wnextRepeat]
  | failType => simp [wnextEffect_failType h, wnextRepeat]
  | failTrunc => simp [wnextEffect_failTrunc h, wnextRepeat]

theorem wgetEffect_reads_admitted (p : Params) (x : Snapshot) : ∀ r ∈ (wgetEffect p x).reads, r.Admitted p := by
  by_cases h : x.walker.wstate = .none
  · simp [wgetEffect_unbound h, Effect.raise]
  · rw [wgetEffect_bound h, wgetFound_reads]
    exact seek_reads_admitted _ _ _ _ _ _ _ _

theorem scanEffect_reads_admitted (q : Params) (x : Snapshot) : ∀ r ∈ (scanEffect q x).reads, r.Admitted q := by
  by_cases h : 0 < (scanStart x).rem ∧ (scanStart x).p % 8 ≠ 0
  · simp [scanEffect_misaligned h, Effect.raise]
  · rw [scanEffect_runs h, scanEnded_reads]
    exact scanLoop_reads_admitted _ _ _ _

theorem tocdscEffect_reads_admitted (p : Params) (x : Snapshot) : ∀ r ∈ (tocdscEffect p x).reads, r.Admitted p := by
  cases h : tocdscCheck p x with
  | some e => simp [tocdscEffect_fault h, Effect.raise]
  | none =>
    obtain ⟨-, -, hok⟩ := tocCheck_none.mp h
    simpa [tocdscEffect_done h rfl rfl] using admitted_of_accessOk hok (by omega)

theorem toclenEffect_reads_admitted (p : Params) (x : Snapshot) : ∀ r ∈ (toclenEffect p x).reads, r.Admitted p := by
  cases h : toclenCheck p x with
  | some e => simp [toclenEffect_fault h, Effect.raise]
  | none =>
    obtain ⟨-, -, hok⟩ := tocCheck_none.mp h
    have hread := admitted_of_accessOk hok (by omega)
    by_cases hlt : descOffset (memRead x.mem (descAddr (x.arg 0) (x.arg 1) + 4) 4) <
        descOffset (memRead x.mem (descAddr (x.arg 0) (x.arg 1)) 4)
    · simpa [toclenEffect_order h rfl rfl rfl hlt, Effect.raise] using hread
    · simpa [toclenEffect_done h rfl rfl rfl (Nat.add_sub_cancel' (Nat.not_lt.mp hlt)).symm] using hread

theorem extractEffect_reads (width x off wid : Nat) : (extractEffect width x off wid).reads = [] := by
  unfold extractEffect
  split <;> rfl

theorem winitEffect_reads (x : Snapshot) : (winitEffect x).reads = [] := by
  unfold winitEffect
  split <;> rfl

/-! ## All commands -/

/-- Every command is confined. -/
theorem effectOf_confined (i : Instr) (p : Params) (x : Snapshot) : (effectOf i p x).Confined p := by
  have hquiet {i : Instr} (hi : i ∉ storingCommands) (hr : ∀ r ∈ (effectOf i p x).reads, r.Admitted p) :
      (effectOf i p x).Confined p := confined_of_no_stores (effectOf_stores_nil p x hi) hr
  cases i with
  | nop => exact empty_confined p _
  | bfx32 off wid => exact hquiet (by simp [storingCommands]) (by simp [effectOf, bfx32Effect, extractEffect_reads])
  | bfx64 off wid => exact hquiet (by simp [storingCommands]) (by simp [effectOf, bfx64Effect, extractEffect_reads])
  | hdr => exact hquiet (by simp [storingCommands]) (by simp [effectOf, hdrEffect])
  | exp64 => exact exp64Effect_confined p x
  | exp128 => exact exp128Effect_confined p x
  | exp128n => exact exp128nEffect_confined p x
  | trc1 => exact contigEffect_confined p x 1
  | trc8 => exact contigEffect_confined p x 8
  | trc16 => exact contigEffect_confined p x 16
  | trc32 => exact contigEffect_confined p x 32
  | trcn => rw [effectOf, trcnEffect_eq_kernel]; exact contigEffect_confined p x 1
  | trp1 => exact pointerEffect_confined p x 1
  | trp8 => exact pointerEffect_confined p x 8
  | trp16 => exact pointerEffect_confined p x 16
  | trp32 => exact pointerEffect_confined p x 32
  | trpn => rw [effectOf, trpnEffect_eq_kernel]; exact pointerEffect_confined p x 1
  | winit => exact hquiet (by simp [storingCommands]) (by simp [effectOf, winitEffect_reads])
  | wnext => exact hquiet (by simp [storingCommands]) (wnextEffect_reads_admitted p x)
  | wget => exact hquiet (by simp [storingCommands]) (wgetEffect_reads_admitted p x)
  | scan => exact hquiet (by simp [storingCommands]) (scanEffect_reads_admitted p x)
  | tocdsc => exact hquiet (by simp [storingCommands]) (tocdscEffect_reads_admitted p x)
  | toclen => exact hquiet (by simp [storingCommands]) (toclenEffect_reads_admitted p x)

theorem inFlight_confined {s : State} {e : Effect} (h : s.inFlight = some e) : e.Confined s.params := by
  unfold State.inFlight at h
  split at h
  · cases h
  · split at h
    · cases h; exact effectOf_confined ..
    · cases h; exact raise_nothing_confined ..

/-! ## The canonical form under each operation (log 3) -/

theorem Effect.Confined.stores_below {p : Params} {e : Effect} (h : e.Confined p) : ∀ st ∈ e.stores, st.1 + 2 ≤ 2 ^ 64 :=
  fun _ hst => (h.writes _ (List.mem_map_of_mem hst)).top

theorem Effect.Confined.writeBytes_below {p : Params} {e : Effect} (h : e.Confined p) : ∀ a ∈ e.writeBytes, a < 2 ^ 64 := by
  intro a ha
  obtain ⟨st, hst, hat⟩ := mem_writeBytes.mp ha
  have := h.stores_below st hst
  omega

theorem inFlightBytes_below (s : State) : ∀ a ∈ s.inFlightBytes, a < 2 ^ 64 := by
  intro a ha
  unfold State.inFlightBytes at ha
  cases he : s.inFlight with
  | none => simp [he] at ha
  | some e =>
    rw [he] at ha
    exact (inFlight_confined he).writeBytes_below a ha

/-- A completion changes no byte outside the write set of its effect, raced or not (20_memory R82). -/
theorem read_memAfter_out {s : State} {e : Effect} {a : Nat} (h : a ∉ e.writeBytes) :
    Memory.read (s.memAfter e) a = Memory.read s.mem a := by
  unfold State.memAfter
  split
  · rfl
  · split
    · exact read_scramble_out _ _ _ _ h
    · refine read_applyStores_out _ _ _ fun st hst => ⟨?_, ?_⟩ <;> rintro rfl
      · exact h (mem_writeBytes.mpr ⟨st, hst, .inl rfl⟩)
      · exact h (mem_writeBytes.mpr ⟨st, hst, .inr rfl⟩)

/-- The completion of a confined effect keeps memory in canonical form, raced or not. -/
theorem wf_memAfter {s : State} {p : Params} {e : Effect} (h : Memory.wf s.mem = true) (he : e.Confined p) :
    Memory.wf (s.memAfter e) = true := by
  unfold State.memAfter
  split
  · exact h
  · split
    · exact wf_scramble he.writeBytes_below h
    · exact wf_applyStores he.stores_below h

theorem State.MemoryInv.of_idle {s : State} (hm : Memory.wf s.mem = true) (hp : s.pend = none) : s.MemoryInv :=
  ⟨hm, fun p h => by simp [hp] at h⟩

/-- The invariant speaks of memory and of the memory of the accept. -/
theorem State.MemoryInv.of_sameInFlight {s t : State} (h : s.MemoryInv) (hf : SameInFlight s t)
    (hm : Memory.wf t.mem = true) : t.MemoryInv := by
  refine ⟨hm, fun q hq => ?_⟩
  obtain ⟨hnone, hsome⟩ := hf
  cases hp : s.pend with
  | none => simp [hnone hp] at hq
  | some p =>
    obtain ⟨p', hp', -, hsnap⟩ := hsome p hp
    obtain rfl : p' = q := by simpa [hp'] using hq
    rw [hsnap]
    exact h.2 p hp

theorem memoryInv_heard {s : State} (rest : List HostEvent) (h : s.MemoryInv) : (s.heard rest).MemoryInv :=
  h.of_sameInFlight (heard_sameInFlight s rest) h.1

theorem memoryInv_readReg {s : State} (r : RegName) (h : s.MemoryInv) : (s.readReg r).MemoryInv :=
  h.of_sameInFlight (sameInFlight_refl (readReg_pend s r)) ((readReg_sameBlock s r).mem ▸ h.1)

theorem memoryInv_writeReg {s : State} (r : RegName) (v : Word) (h : s.MemoryInv) : (s.writeReg r v).MemoryInv := by
  rcases writeReg_cases s v r with ⟨-, hw⟩ | ⟨-, hw⟩ | ⟨-, i, hw⟩ | hw <;> rw [hw]
  · refine ⟨h.1, fun p hp => ?_⟩
    obtain rfl := Option.some.inj hp
    exact h.1
  · exact h
  · exact h
  · exact h

theorem loadMem_sameInFlight (s : State) (addr n : Nat) : SameInFlight s (s.loadMem addr n) :=
  ⟨fun hn => by simp [hn], fun p hp => ⟨p.noteRead ⟨addr, n⟩, by simp [hp], rfl, rfl⟩⟩

theorem storeMem_sameInFlight (s : State) (addr : Nat) (bytes : List Byte) : SameInFlight s (s.storeMem addr bytes) :=
  ⟨fun hn => by simp [hn], fun p hp => ⟨p.noteWrite ⟨addr, bytes.length⟩, by simp [hp], rfl, rfl⟩⟩

/-- A host access that reaches memory lies below 2^64 (20_memory R60). -/
theorem le_of_target_memory {p : Params} {addr n : Nat} (h : target p addr n = .memory) : addr + n ≤ 2 ^ 64 := by
  unfold target at h
  split at h
  · cases h
  · omega

theorem memoryInv_storeMem {s : State} {addr : Nat} {bytes : List Byte} (h : s.MemoryInv)
    (ht : target s.params addr bytes.length = .memory) : (s.storeMem addr bytes).MemoryInv :=
  h.of_sameInFlight (storeMem_sameInFlight s addr bytes) (wf_storeBytes (le_of_target_memory ht) h.1)

theorem memoryInv_resetNow {s : State} (h : s.MemoryInv) : (s.resetNow s.inFlightBytes).MemoryInv :=
  .of_idle (wf_scramble (inFlightBytes_below s) h.1) rfl

end Sys2Proof.Machine
end

section
/-! SUPPORT. A command's effect depends on memory only through the bytes it reads (20_memory R79): the operand forms and the loops on
two memories that agree there. -/

namespace Sys2Proof.Machine

/-! ## Memories that agree on ranges -/

/-- Two memories agree on every byte of these ranges. -/
def AgreeOn (rs : List Span) (m m' : Memory) : Prop :=
  ∀ r ∈ rs, ∀ a, r.base ≤ a → a < r.base + r.len → Memory.read m a = Memory.read m' a

section Agree
variable {rs : List Span} {m m' : Memory}

theorem AgreeOn.append_left {rs' : List Span} (h : AgreeOn (rs ++ rs') m m') : AgreeOn rs m m' :=
  fun r hr => h r (List.mem_append_left _ hr)

theorem AgreeOn.append_right {rs' : List Span} (h : AgreeOn (rs ++ rs') m m') : AgreeOn rs' m m' :=
  fun r hr => h r (List.mem_append_right _ hr)

theorem AgreeOn.tail {r : Span} (h : AgreeOn (r :: rs) m m') : AgreeOn rs m m' :=
  fun r hr => h r (List.mem_cons_of_mem _ hr)

theorem AgreeOn.memRead {b k a n : Nat} (h : AgreeOn rs m m') (hr : ⟨b, k⟩ ∈ rs) (hlo : b ≤ a) (hhi : a + n ≤ b + k) :
    memRead m a n = memRead m' a n :=
  memRead_congr fun c h1 h2 => h _ hr c (Nat.le_trans hlo h1) (Nat.lt_of_lt_of_le h2 hhi)

/-- The ADCs of a stream stand in its packed words (20_memory R70). -/
theorem AgreeOn.adcS {b k S i : Nat} (h : AgreeOn rs m m') (hr : ⟨b, k⟩ ∈ rs) (hi : i < 64) (hlo : b ≤ S + 16)
    (hhi : S + 112 ≤ b + k) : adcS m S i = adcS m' S i := by
  rw [Machine.adcS, Machine.adcS, h.memRead hr (by omega) (by omega)]

/-- The ADCs of a frame stand in the frame (20_memory R69). -/
theorem AgreeOn.adcF {b k F c : Nat} (h : AgreeOn rs m m') (hr : ⟨b, k⟩ ∈ rs) (hc : c < 128) (hlo : b ≤ F)
    (hhi : F + 240 ≤ b + k) : adcF m F c = adcF m' F c :=
  h.adcS hr (by omega) (by omega) (by omega)

/-- The elements of N frames stand in the frame array (20_memory R72). -/
theorem AgreeOn.val {B N c f : Nat} (h : AgreeOn rs m m') (hr : ⟨B, 240 * N⟩ ∈ rs) (hc : c < 128) (hf : f < N) :
    val m B c f = val m' B c f := by
  rw [Machine.val, Machine.val, h.adcF hr hc (by omega) (by omega)]

/-- The pointers stand in the pointer array (44_transpose R192). -/
theorem AgreeOn.pointerAt {Q c : Nat} (h : AgreeOn rs m m') (hr : ⟨Q, 1024⟩ ∈ rs) (hc : c < 128) :
    pointerAt m Q c = pointerAt m' Q c :=
  h.memRead hr (by omega) (by omega)

end Agree

/-- The same registers with another memory. -/
def Snapshot.onMem (x : Snapshot) (m : Memory) : Snapshot := { x with mem := m }

@[simp] theorem onMem_arg (x : Snapshot) (m : Memory) (i : Fin 8) : (x.onMem m).arg i = x.arg i := rfl
@[simp] theorem onMem_walker (x : Snapshot) (m : Memory) : (x.onMem m).walker = x.walker := rfl
@[simp] theorem onMem_mem (x : Snapshot) (m : Memory) : (x.onMem m).mem = m := rfl

/-! ## The storing commands -/

section Storing
variable {p : Params} {x : Snapshot} {m : Memory}

/-- An expansion reads its source, and that only if its checks pass. -/
theorem expandEffect_congr {src nin dst nout : Nat} {l l' : List (Nat × Half)}
    (h : AgreeOn (expandEffect p src nin dst nout l).reads m x.mem) (hl : AgreeOn [⟨src, nin⟩] m x.mem → l' = l) :
    expandEffect p src nin dst nout l' = expandEffect p src nin dst nout l := by
  cases hc : expCheck p src nin dst nout with
  | some e => rw [expandEffect_fault hc, expandEffect_fault hc]
  | none =>
    rw [expandEffect_done hc] at h
    rw [hl h]

theorem exp64Effect_congr (h : AgreeOn (exp64Effect p x).reads m x.mem) :
    exp64Effect p (x.onMem m) = exp64Effect p x :=
  expandEffect_congr h fun (hsrc : AgreeOn [⟨x.arg 2, 112⟩] m x.mem) => List.map_congr_left fun k hk => by
    rw [onMem_arg, onMem_arg, onMem_mem, hsrc.adcS (List.mem_singleton_self _) (List.mem_range.mp hk) (by omega) (by omega)]

theorem exp128Effect_congr (h : AgreeOn (exp128Effect p x).reads m x.mem) :
    exp128Effect p (x.onMem m) = exp128Effect p x :=
  expandEffect_congr h fun (hsrc : AgreeOn [⟨x.arg 2, 240⟩] m x.mem) => List.map_congr_left fun c hc => by
    rw [onMem_arg, onMem_arg, onMem_mem, hsrc.adcF (List.mem_singleton_self _) (mem_channels.mp hc) (by omega) (by omega)]

theorem exp128nEffect_congr (h : AgreeOn (exp128nEffect p x).reads m x.mem) :
    exp128nEffect p (x.onMem m) = exp128nEffect p x := by
  by_cases h0 : x.arg 3 = 0
  · rw [exp128nEffect_empty h0, exp128nEffect_empty (x := x.onMem m) h0]
  · rw [exp128nEffect_frames h0] at h ⊢
    rw [exp128nEffect_frames (x := x.onMem m) h0]
    exact expandEffect_congr h fun hsrc => gridStores_congr fun c f hc hf =>
      ⟨rfl, hsrc.val (List.mem_singleton_self _) hc hf⟩

/-- A contiguous transpose reads the frames, and that only if its checks pass. -/
theorem contigEffect_congr {g : Nat} (h : AgreeOn (contigEffect p x g (contigKernel x)).reads m x.mem) :
    contigEffect p (x.onMem m) g (contigKernel (x.onMem m)) = contigEffect p x g (contigKernel x) := by
  by_cases h0 : x.arg 3 = 0
  · rw [contigEffect_none h0, contigEffect_none (x := x.onMem m) h0]
  · cases hc : contigCheck p g (x.arg 0) (x.arg 1) (x.arg 2) (x.arg 3) with
    | some e => rw [contigEffect_fault h0 hc, contigEffect_fault (x := x.onMem m) h0 hc]
    | none =>
      rw [contigEffect_done h0 hc] at h ⊢
      have hkernel : contigKernel (x.onMem m) = contigKernel x :=
        gridStores_congr fun c f hc hf => ⟨rfl, h.val (List.mem_singleton_self _) hc hf⟩
      rw [contigEffect_done (x := x.onMem m) h0 hc, hkernel]
      rfl

theorem any_channels_congr {f g : Nat → Bool} (h : ∀ c, c < 128 → f c = g c) : channels.any f = channels.any g := by
  rw [Bool.eq_iff_iff, List.any_eq_true, List.any_eq_true]
  exact exists_congr fun c => and_congr_right fun hc => by rw [h c (mem_channels.mp hc)]

/-- The checks on the rows read memory through the pointers only (44_transpose R193). -/
theorem pointerCheckRows_congr {m' : Memory} {Q offset B N : Nat}
    (h : ∀ c, c < 128 → pointerAt m Q c = pointerAt m' Q c) :
    pointerCheckRows p m Q offset B N = pointerCheckRows p m' Q offset B N := by
  have hrow (c : Nat) (hc : c < 128) : pointerRow m Q offset N c = pointerRow m' Q offset N c := by
    rw [pointerRow, pointerRow, h c hc]
  have hclash : rowsClash (pointerRow m Q offset N) = rowsClash (pointerRow m' Q offset N) :=
    any_channels_congr fun c hc => any_channels_congr fun d hd => by rw [hrow c hc, hrow d hd]
  rw [pointerCheckRows, pointerCheckRows, hclash, any_channels_congr fun c hc => by rw [h c hc],
    any_channels_congr (f := fun c => !accessOk p (pointerRow m Q offset N c).base (2 * N) .write)
      fun c hc => by rw [hrow c hc],
    any_channels_congr (f := fun c => Span.meets (pointerRow m Q offset N c) ⟨B, 240 * N⟩) fun c hc => by rw [hrow c hc],
    any_channels_congr (f := fun c => Span.meets (pointerRow m Q offset N c) ⟨Q, 1024⟩) fun c hc => by rw [hrow c hc]]

/-- A pointer-array transpose reads the pointers for the checks on its rows, and the frames only if those pass. -/
theorem pointerEffect_congr {g : Nat} (h : AgreeOn (pointerEffect p x g (pointerKernel x)).reads m x.mem) :
    pointerEffect p (x.onMem m) g (pointerKernel (x.onMem m)) = pointerEffect p x g (pointerKernel x) := by
  by_cases h0 : x.arg 3 = 0
  · rw [pointerEffect_none h0, pointerEffect_none (x := x.onMem m) h0]
  · cases h1 : pointerCheckArray p g (x.arg 0) (x.arg 2) (x.arg 3) with
    | some e => rw [pointerEffect_array_fault h0 h1, pointerEffect_array_fault (x := x.onMem m) h0 h1]
    | none =>
      have hrows {rs : List Span} (ha : AgreeOn rs m x.mem) (hQ : ⟨x.arg 0, 1024⟩ ∈ rs) :
          pointerCheckRows p m (x.arg 0) (x.arg 1) (x.arg 2) (x.arg 3) =
            pointerCheckRows p x.mem (x.arg 0) (x.arg 1) (x.arg 2) (x.arg 3) :=
        pointerCheckRows_congr fun c hc => ha.pointerAt hQ hc
      cases h2 : pointerCheckRows p x.mem (x.arg 0) (x.arg 1) (x.arg 2) (x.arg 3) with
      | some e =>
        rw [pointerEffect_rows_fault h0 h1 h2] at h ⊢
        rw [pointerEffect_rows_fault (x := x.onMem m) h0 h1 ((hrows h (List.mem_singleton_self _)).trans h2)]
        rfl
      | none =>
        rw [pointerEffect_done h0 h1 h2] at h ⊢
        have hkernel : pointerKernel (x.onMem m) = pointerKernel x := gridStores_congr fun c f hc hf =>
          ⟨congrArg (· + 2 * (x.arg 1 + f)) (h.pointerAt (List.mem_cons_self ..) hc),
            h.val (List.mem_cons_of_mem _ (List.mem_singleton_self _)) hc hf⟩
        rw [pointerEffect_done (x := x.onMem m) h0 h1 ((hrows h (by simp)).trans h2), hkernel]
        rfl

end Storing

/-! ## The walker -/

/-- The outcome at an offset depends on the payload header only (45_walker R221). -/
theorem parse_congr {p : Params} {m m' : Memory} {base size o : Nat} (h : AgreeOn (parseReads p base size o) m m') :
    parse p m base size o = parse p m' base size o := by
  by_cases hr : o + p.phSize ≤ size ∧ accessOk p (base + o) p.phSize .read = true
  · rw [parseReads_header hr.1 hr.2] at h
    rw [parse, parse, h.memRead (List.mem_singleton_self _) (Nat.le_refl _) (Nat.le_refl _)]
  · exact parse_unread hr m'

theorem seek_congr {p : Params} {m m' : Memory} {base size j fuel o k : Nat}
    (h : AgreeOn (seek p m' base size j fuel o k).reads m m') :
    seek p m base size j fuel o k = seek p m' base size j fuel o k := by
  induction fuel generalizing o k with
  | zero => rfl
  | succ fuel ih =>
    cases hp : parse p m' base size o with
    | payload q =>
      by_cases hk : k = j
      · rw [seek_found hp hk] at h ⊢
        rw [seek_found ((parse_congr h).trans hp) hk]
      · rw [seek_next hp hk] at h ⊢
        rw [seek_next ((parse_congr h.append_left).trans hp) hk, ih h.append_right]
    | _ =>
      have hstop : ∀ q, parse p m' base size o ≠ .payload q := by simp [hp]
      rw [seek_stops hstop] at h ⊢
      have he := parse_congr h
      rw [seek_stops (by rwa [he]), he]

theorem wnextEffect_congr {p : Params} {x : Snapshot} {m : Memory} (h : AgreeOn (wnextEffect p x).reads m x.mem) :
    wnextEffect p (x.onMem m) = wnextEffect p x := by
  have hwalk (hw : x.walker.wstate = .atHeader ∨ x.walker.wstate = .atPayload) : wnextEffect p (x.onMem m) = wnextEffect p x := by
    rw [wnextEffect_walking hw] at h ⊢
    rw [wnextParsed_reads] at h
    rw [wnextEffect_walking (x := x.onMem m) hw]
    exact congrArg _ (parse_congr h)
  cases hw : x.walker.wstate with
  | none => rw [wnextEffect_unbound hw, wnextEffect_unbound (x := x.onMem m) hw]
  | atHeader => exact hwalk (.inl hw)
  | atPayload => exact hwalk (.inr hw)
  | ended => rw [wnextEffect_ended hw, wnextEffect_ended (x := x.onMem m) hw, onMem_walker]
  | failType => rw [wnextEffect_failType hw, wnextEffect_failType (x := x.onMem m) hw, onMem_walker]
  | failTrunc => rw [wnextEffect_failTrunc hw, wnextEffect_failTrunc (x := x.onMem m) hw, onMem_walker]

theorem wgetEffect_congr {p : Params} {x : Snapshot} {m : Memory} (h : AgreeOn (wgetEffect p x).reads m x.mem) :
    wgetEffect p (x.onMem m) = wgetEffect p x := by
  by_cases hw : x.walker.wstate = .none
  · rw [wgetEffect_unbound hw, wgetEffect_unbound (x := x.onMem m) hw]
  · rw [wgetEffect_bound hw] at h ⊢
    rw [wgetFound_reads] at h
    rw [wgetEffect_bound (x := x.onMem m) hw]
    exact congrArg _ (seek_congr h)

/-! ## SCAN, TOCDSC and TOCLEN -/

theorem scanLoop_congr {q : Params} {m m' : Memory} {fuel : Nat} {st : ScanState}
    (h : AgreeOn (scanLoop q m' fuel st).reads m m') : scanLoop q m fuel st = scanLoop q m' fuel st := by
  induction fuel generalizing st with
  | zero => rfl
  | succ fuel ih =>
    by_cases hrem : st.rem ≤ 0
    · rw [scanLoop_empty hrem, scanLoop_empty hrem]
    have hrem : 0 < st.rem := Int.not_le.mp hrem
    cases hok : accessOk q st.p 8 .read with
    | false => rw [scanLoop_bus hrem hok, scanLoop_bus hrem hok]
    | true =>
      have hheader {rs : List Span} (ha : AgreeOn rs m m') (hr : ⟨st.p, 8⟩ ∈ rs) : memRead m st.p 8 = memRead m' st.p 8 :=
        ha.memRead hr (Nat.le_refl _) (Nat.le_refl _)
      by_cases hf : 2 < headerFormat (memRead m' st.p 8)
      · rw [scanLoop_stop hrem hok hf] at h ⊢
        have he := hheader h (List.mem_singleton_self _)
        rw [← he] at hf ⊢
        exact scanLoop_stop hrem hok hf
      have hf := Nat.not_lt.mp hf
      by_cases hn : headerLength q (headerFormat (memRead m' st.p 8)) (memRead m' st.p 8) = 0
      · rw [scanLoop_zero hrem hok hf hn] at h ⊢
        have he := hheader h (List.mem_singleton_self _)
        rw [← he] at hf hn
        exact scanLoop_zero hrem hok hf hn
      · rw [scanLoop_pass hrem hok hf hn] at h ⊢
        have he := hheader h (List.mem_cons_self ..)
        rw [← ih h.tail, ← he]
        rw [← he] at hf hn
        exact scanLoop_pass hrem hok hf hn

theorem scanEffect_congr {q : Params} {x : Snapshot} {m : Memory} (h : AgreeOn (scanEffect q x).reads m x.mem) :
    scanEffect q (x.onMem m) = scanEffect q x := by
  by_cases ha : 0 < (scanStart x).rem ∧ (scanStart x).p % 8 ≠ 0
  · rw [scanEffect_misaligned ha, scanEffect_misaligned (x := x.onMem m) ha]
  · rw [scanEffect_runs ha] at h ⊢
    rw [scanEnded_reads] at h
    rw [scanEffect_runs (x := x.onMem m) ha]
    exact congrArg _ (scanLoop_congr h)

theorem tocdscEffect_congr {p : Params} {x : Snapshot} {m : Memory} (h : AgreeOn (tocdscEffect p x).reads m x.mem) :
    tocdscEffect p (x.onMem m) = tocdscEffect p x := by
  cases hc : tocdscCheck p x with
  | some e => rw [tocdscEffect_fault hc, tocdscEffect_fault (x := x.onMem m) hc]
  | none =>
    rw [tocdscEffect_done hc rfl rfl] at h ⊢
    exact tocdscEffect_done (x := x.onMem m) hc rfl (h.memRead (List.mem_singleton_self _) (Nat.le_refl _) (Nat.le_refl _))

theorem toclenEffect_congr {p : Params} {x : Snapshot} {m : Memory} (h : AgreeOn (toclenEffect p x).reads m x.mem) :
    toclenEffect p (x.onMem m) = toclenEffect p x := by
  cases hc : toclenCheck p x with
  | some e => rw [toclenEffect_fault hc, toclenEffect_fault (x := x.onMem m) hc]
  | none =>
    have hread {rs : List Span} (ha : AgreeOn rs m x.mem) (hr : ⟨descAddr (x.arg 0) (x.arg 1), 8⟩ ∈ rs) :
        memRead m (descAddr (x.arg 0) (x.arg 1)) 4 = memRead x.mem (descAddr (x.arg 0) (x.arg 1)) 4 ∧
          memRead m (descAddr (x.arg 0) (x.arg 1) + 4) 4 = memRead x.mem (descAddr (x.arg 0) (x.arg 1) + 4) 4 :=
      ⟨ha.memRead hr (by omega) (by omega), ha.memRead hr (by omega) (by omega)⟩
    by_cases hlt : descOffset (memRead x.mem (descAddr (x.arg 0) (x.arg 1) + 4) 4) <
        descOffset (memRead x.mem (descAddr (x.arg 0) (x.arg 1)) 4)
    · rw [toclenEffect_order hc rfl rfl rfl hlt] at h ⊢
      obtain ⟨h0, h1⟩ := hread h (List.mem_singleton_self _)
      exact toclenEffect_order (x := x.onMem m) hc rfl h0 h1 hlt
    · have hlen := (Nat.add_sub_cancel' (Nat.not_lt.mp hlt)).symm
      rw [toclenEffect_done hc rfl rfl rfl hlen] at h ⊢
      obtain ⟨h0, h1⟩ := hread h (List.mem_singleton_self _)
      exact toclenEffect_done (x := x.onMem m) hc rfl h0 h1 hlen

/-! ## All commands -/

theorem effectOf_congr {i : Instr} {p : Params} {x : Snapshot} {m : Memory} (h : AgreeOn (effectOf i p x).reads m x.mem) :
    effectOf i p (x.onMem m) = effectOf i p x := by
  have hpointer (g : Nat) (h : AgreeOn (pointerEffect p x g (pointerKernel x)).reads m x.mem) := pointerEffect_congr h
  cases i with
  | nop => rfl
  | bfx32 off wid => rfl
  | bfx64 off wid => rfl
  | hdr => rfl
  | exp64 => exact exp64Effect_congr h
  | exp128 => exact exp128Effect_congr h
  | exp128n => exact exp128nEffect_congr h
  | trc1 => exact contigEffect_congr h
  | trc8 => exact contigEffect_congr h
  | trc16 => exact contigEffect_congr h
  | trc32 => exact contigEffect_congr h
  | trcn =>
    simp only [effectOf, trcnEffect_eq_kernel] at h ⊢
    exact contigEffect_congr h
  | trp1 => exact hpointer 1 h
  | trp8 => exact hpointer 8 h
  | trp16 => exact hpointer 16 h
  | trp32 => exact hpointer 32 h
  | trpn =>
    simp only [effectOf, trpnEffect_eq_kernel] at h ⊢
    exact hpointer 1 h
  | winit => rfl
  | wnext => exact wnextEffect_congr h
  | wget => exact wgetEffect_congr h
  | scan => exact scanEffect_congr h
  | tocdsc => exact tocdscEffect_congr h
  | toclen => exact toclenEffect_congr h

end Sys2Proof.Machine
end

section
/-! SUPPORT. The bits of a memory read and the packed ADCs (20_memory R61, R70, R71), commands that complete with elements or with
results, the host's loads and stores of memory, and the fields of a descriptor (20_memory R75). -/

namespace Sys2Proof.Machine

/-! ## The bits of a memory read -/

/-- Bit i of a read is bit i mod 8 of its byte i / 8 (20_memory R61). -/
theorem memRead_testBit (m : Memory) (a n i : Nat) :
    (memRead m a n).testBit i = (decide (i < 8 * n) && (Memory.read m (a + i / 8)).toNat.testBit (i % 8)) := by
  induction n generalizing a i with
  | zero => simp [memRead]
  | succ n ih =>
    have hsplit : memRead m a (n + 1) = 2 ^ 8 * memRead m (a + 1) n + (Memory.read m a).toNat := by
      rw [memRead]
      omega
    rw [hsplit, Nat.testBit_two_pow_mul_add _ (Memory.read m a).isLt]
    split
    · next hlt => simp [show i < 8 * (n + 1) by omega, Nat.div_eq_of_lt hlt, Nat.mod_eq_of_lt hlt]
    · next hge =>
      rw [ih, show a + 1 + (i - 8) / 8 = a + i / 8 by omega, show (i - 8) % 8 = i % 8 by omega]
      congr 1
      exact decide_eq_decide.mpr (by omega)

theorem fld_testBit (v lo w i : Nat) : (fld v lo w).testBit i = (decide (i < w) && v.testBit (lo + i)) := by
  rw [fld, Nat.testBit_mod_two_pow, Nat.testBit_shiftRight]

/-- A field of a read that lies in k bytes from byte o on is a field of the read of those bytes. -/
theorem fld_memRead_within (m : Memory) (a : Nat) {n o k lo w : Nat} (hin : o + k ≤ n) (hw : lo + w ≤ 8 * k) :
    fld (memRead m a n) (8 * o + lo) w = fld (memRead m (a + o) k) lo w := by
  refine Nat.eq_of_testBit_eq fun i => ?_
  rw [fld_testBit, fld_testBit, memRead_testBit, memRead_testBit]
  by_cases hi : i < w
  · rw [show a + (8 * o + lo + i) / 8 = a + o + (lo + i) / 8 by omega, show (8 * o + lo + i) % 8 = (lo + i) % 8 by omega,
      decide_eq_true (show 8 * o + lo + i < 8 * n by omega), decide_eq_true (show lo + i < 8 * k by omega)]
  · simp [hi]

/-- A read of n + k bytes is the read of the first n and, above it, that of the others (20_memory R61). -/
theorem memRead_add (m : Memory) (a n k : Nat) :
    memRead m a (n + k) = memRead m a n + 256 ^ n * memRead m (a + n) k := by
  induction n generalizing a with
  | zero => simp [memRead]
  | succ n ih =>
    rw [Nat.succ_add, memRead, memRead, ih, Nat.add_assoc a 1 n, Nat.add_comm 1 n, Nat.pow_succ]
    ring

/-! ## Packed ADCs (20_memory R70, R71) -/

/-- ADC i of group g of a stream, a field of the group's three words. -/
theorem adcS_group (m : Memory) (S g : Nat) {i : Nat} (hi : i < 16) :
    adcS m S (16 * g + i) = fld (memRead m (S + 16 + 24 * g) 24) (12 * i) 12 := by
  rw [adcS, show (16 * g + i) / 16 = g by omega, show (16 * g + i) % 16 = i by omega]

/-- ADC k of a stream is a field of its twelve packed words (20_memory R70). -/
theorem adcS_eq_fld (m : Memory) (S : Nat) {k : Nat} (hk : k < 64) :
    adcS m S k = fld (memRead m (S + 16) 96) (12 * k) 12 := by
  have hwithin := fld_memRead_within m (S + 16) (n := 96) (o := 24 * (k / 16)) (k := 24) (lo := 12 * (k % 16)) (w := 12)
    (by omega) (by omega)
  rw [adcS, ← hwithin, show 8 * (24 * (k / 16)) + 12 * (k % 16) = 12 * k by omega]

/-- The sixteen 12-bit fields of three 64-bit words (20_memory R71). -/
theorem fields_of_words {a b c : Nat} (ha : a < 2 ^ 64) (hb : b < 2 ^ 64) (hc : c < 2 ^ 64) :
    (List.range 16).map (fun i => fld (a + 2 ^ 64 * (b + 2 ^ 64 * c)) (12 * i) 12) =
      [a % 2 ^ 12, a / 2 ^ 12 % 2 ^ 12, a / 2 ^ 24 % 2 ^ 12, a / 2 ^ 36 % 2 ^ 12, a / 2 ^ 48 % 2 ^ 12,
       a / 2 ^ 60 + b % 2 ^ 8 * 2 ^ 4, b / 2 ^ 8 % 2 ^ 12, b / 2 ^ 20 % 2 ^ 12, b / 2 ^ 32 % 2 ^ 12, b / 2 ^ 44 % 2 ^ 12,
       b / 2 ^ 56 + c % 2 ^ 4 * 2 ^ 8, c / 2 ^ 4 % 2 ^ 12, c / 2 ^ 16 % 2 ^ 12, c / 2 ^ 28 % 2 ^ 12, c / 2 ^ 40 % 2 ^ 12,
       c / 2 ^ 52] := by
  simp only [fld_eq, List.range, List.range.loop, List.map_cons, List.map_nil, List.cons.injEq]
  norm_num at ha hb hc ⊢
  refine ⟨?_, ?_, ?_, ?_, ?_, ?_, ?_, ?_, ?_, ?_, ?_, ?_, ?_, ?_, ?_, ?_⟩ <;> omega

/-- Frame channels 0..63 are stream 0, 64..127 stream 1 (43_unpack R171). -/
theorem adcF_stream0 (m : Memory) (F : Nat) {k : Nat} (hk : k < 64) : adcF m F k = adcS m (F + 16) k := by
  rw [adcF, Nat.div_eq_of_lt hk, Nat.mod_eq_of_lt hk]

theorem adcF_stream1 (m : Memory) (F : Nat) {k : Nat} (hk : k < 64) : adcF m F (64 + k) = adcS m (F + 128) k := by
  rw [adcF, show (64 + k) / 64 = 1 by omega, show (64 + k) % 64 = k by omega]

/-! ## Commands that complete with elements -/

/-- The end of a command that stores the elements `l` and writes no register but STATUS: each element stands where it was stored, and
no other byte changes. -/
structure Stored (s t : State) (l : List (Nat × Half)) : Prop where
  finished : Finished s t false
  elements : ∀ st ∈ l, memRead t.mem st.1 2 = st.2.toNat
  outside : ∀ a, (∀ st ∈ l, a ≠ st.1 ∧ a ≠ st.1 + 1) → Memory.read t.mem a = Memory.read s.mem a
  results : t.results = s.results
  walker : t.walker = s.walker

/-- A disciplined command whose effect is to store elements ends with them stored: every command's elements share no byte. -/
theorem exec_stores {i : Instr} {s : State} {l : List (Nat × Half)} {r : List Span}
    (he : effectOf i s.params s.latched = { verdict := .done false, stores := l, reads := r })
    (hd : Disciplined s (effectOf i s.params s.latched)) : ∃ t, exec i s = .next t ∧ Stored s t l := by
  have hapart := (effectOf_confined i s.params s.latched).apart
  refine ⟨_, exec_eq i s, ?_⟩
  rw [he] at hd hapart ⊢
  obtain ⟨hres, -, hwalk, hmem⟩ := complete_done (s := s) (d := resultRegs i) rfl hd
  exact ⟨complete_finished rfl, fun st hst => by rw [hmem]; exact memRead_applyStores hapart hst _,
    fun a ha => by rw [hmem]; exact read_applyStores_out _ _ _ ha, hres, hwalk⟩

/-- Bytes outside a list of addresses that holds every element's are as before. -/
theorem Stored.sameMemoryOutside {s t : State} {l : List (Nat × Half)} {addrs : List Nat} (h : Stored s t l)
    (hl : ∀ st ∈ l, st.1 ∈ addrs) : SameMemoryOutside addrs s t :=
  fun a ha => h.outside a fun st hst => ha st.1 (hl st hst)

/-- An access that passes 2^64 or fails MEM_OK is none the engine may make (20_memory R62, R63). -/
theorem accessOk_false {p : Params} {a n : Nat} {k : AccessKind} (h : 2 ^ 64 < a + n ∨ memOk p a n k = false) :
    accessOk p a n k = false := by
  refine Bool.eq_false_iff.mpr fun hok => ?_
  obtain ⟨htop, hmem⟩ := accessOk_iff.mp hok
  rcases h with h | h
  · omega
  · simp [hmem] at h

/-- Operands with no fault pass the checks of an expansion (43_unpack R172). -/
theorem expCheck_passes {p : Params} {src nin dst nout : Nat} (hs : src % 8 = 0) (hd : dst % 2 = 0) (hsrc : src + nin ≤ 2 ^ 64)
    (hread : memOk p src nin .read = true) (hdst : dst + nout ≤ 2 ^ 64) (hwrite : memOk p dst nout .write = true)
    (hapart : src + nin ≤ dst ∨ dst + nout ≤ src) : expCheck p src nin dst nout = none := by
  refine expCheck_none.mpr ⟨hs, hd, accessOk_iff.mpr ⟨hsrc, hread⟩, accessOk_iff.mpr ⟨hdst, hwrite⟩, ?_⟩
  rw [Bool.eq_false_iff, Ne, meets_iff]
  dsimp only
  omega

/-! ## Commands that complete with results -/

/-- A disciplined command whose effect is to write result registers ends with them written, memory and walker as before. -/
theorem exec_results {i : Instr} {s : State} {c : Bool} {rs : List (Fin 8 × Word)} {r : List Span}
    (he : effectOf i s.params s.latched = { verdict := .done c, results := rs, reads := r })
    (hd : Disciplined s (effectOf i s.params s.latched)) :
    ∃ t, exec i s = .next t ∧ Finished s t c ∧ t.results = writeResults s.results rs ∧
      SameResultsOutside (resultRegs i) s t ∧ SameMemory s t ∧ t.walker = s.walker := by
  have hout := complete_sameResultsOutside (s := s) (effectOf_results_listed i s.params s.latched)
  refine ⟨_, exec_eq i s, ?_⟩
  rw [he] at hd hout ⊢
  obtain ⟨hres, -, hwalk, hmem⟩ := complete_done (s := s) (d := resultRegs i) rfl hd
  exact ⟨complete_finished rfl, hres, hout, fun a => by rw [hmem]; rfl, hwalk⟩

/-- Writes of R0..R4 in order leave R5..R7. -/
theorem writeResults_five (r : Vector Word 8) (v0 v1 v2 v3 v4 : Word) :
    writeResults r [(0, v0), (1, v1), (2, v2), (3, v3), (4, v4)] = #v[v0, v1, v2, v3, v4, r[5], r[6], r[7]] := by
  refine Vector.ext fun i hi => ?_
  interval_cases i <;> simp [writeResults]

/-! ## The host's loads and stores of memory (20_memory R79..R81) -/

@[simp] theorem heard_unseen (s : State) (rest : List HostEvent) : (s.heard rest).unseen = s.unseen := rfl

/-- The effect in flight does not depend on the delay left. -/
@[simp] theorem heard_inFlight (s : State) (rest : List HostEvent) : (s.heard rest).inFlight = s.inFlight := by
  cases hp : s.pend <;> simp [State.inFlight, hp]

@[simp] theorem heard_inFlightBytes (s : State) (rest : List HostEvent) : (s.heard rest).inFlightBytes = s.inFlightBytes := by
  rw [State.inFlightBytes, heard_inFlight]
  rfl

@[simp] theorem loadMem_replies (s : State) (addr n : Nat) :
    (s.loadMem addr n).replies = .mem (s.loadBytes addr n) :: s.replies := rfl

theorem SameInFlight.trans {s t u : State} (h : SameInFlight s t) (h' : SameInFlight t u) : SameInFlight s u := by
  refine ⟨fun hp => h'.1 (h.1 hp), fun p hp => ?_⟩
  obtain ⟨p', hp', hcmd, hsnap⟩ := h.2 p hp
  obtain ⟨p'', hp'', hcmd', hsnap'⟩ := h'.2 p' hp'
  exact ⟨p'', hp'', hcmd'.trans hcmd, hsnap'.trans hsnap⟩

/-- A step that takes a load of memory. -/
theorem step_loadMem {s : State} {addr n : Nat} {rest : List HostEvent} (ht : s.HostTurn)
    (hm : target s.params addr n = .memory) (hi : s.inbox = .load addr n :: rest) :
    step s = .next ((s.heard rest).loadMem addr n) :=
  (step_event ht hi).trans (hostAct_load_memory hm)

/-- A step that takes a store to memory. -/
theorem step_storeMem {s : State} {addr : Nat} {bytes : List Byte} {rest : List HostEvent} (ht : s.HostTurn)
    (hm : target s.params addr bytes.length = .memory) (hi : s.inbox = .store addr bytes :: rest) :
    step s = .next ((s.heard rest).storeMem addr bytes) :=
  (step_event ht hi).trans (hostAct_store_memory hm)

/-- The answer of a load with nothing in flight and nothing unacquired is what stands in memory. -/
theorem loadBytes_settled {s : State} {addr n : Nat} (hp : s.pend = none) (hu : s.unseen = []) :
    s.loadBytes addr n = (List.range n).map fun k => Memory.read s.mem (addr + k) :=
  List.map_congr_left fun k _ => loadByte_settled (by simp [inFlightBytes_of_idle hp]) (by simp [hu])

/-- Right after a completion a load answers old or new bytes: what stands there, or what stood there before the command. -/
theorem loadByte_of_complete {s t : State} {d : List (Fin 8)} {e : Effect} {n a : Nat} (hu : s.unseen = []) (hp : t.pend = none)
    (hm : t.mem = (s.complete d e).mem) (ht : t.unseen = (s.complete d e).unseen) :
    t.loadByte n a = Memory.read s.mem a ∨ t.loadByte n a = Memory.read (s.complete d e).mem a := by
  rcases loadByte_of_idle (n := n) (a := a) hp with h | h
  · exact .inr (by rw [h, hm])
  · rw [ht, complete_unseen, hu, List.nil_append] at h
    exact .inl (mem_cellsAt.mp h).2

/-- A load of STATUS with BUSY = 0 answers it and acquires (10_state R37, 20_memory R81). -/
theorem readReg_status_acquires {s : State} (h : s.status.busy = false) :
    s.readReg .status = { s.answer (.reg s.status.word) with observed := true, unseen := [] } := by
  simp [readReg_status, acquire_eq, h]

/-! ## The fields of a descriptor (20_memory R75) -/

theorem toWord_bit (b : Bool) : toWord (bit b) = if b then 1 else 0 := by cases b <;> rfl

theorem descFormat_eq (d : Nat) : descFormat d = d % 16 := by simp [descFormat, fld_eq]

theorem descType_eq (d : Nat) : descType d = d / 16 % 16 := by simp [descType, fld_eq]

/-- A descriptor is 32 bits wide, so offset64 is all of it above bit 7. -/
theorem descOffset_memRead (m : Memory) (a : Nat) : descOffset (memRead m a 4) = memRead m a 4 / 256 := by
  have hlt := memRead_lt m a 4
  rw [descOffset, fld_eq]
  omega

end Sys2Proof.Machine
end

section
/-! CERTIFICATE. The statements of the memory (20_memory) and of the commands that only read it or expand it: where the bytes of a
command lie, the host's accesses to memory, the packed ADCs, the expansions, the payload at an offset, and the descriptors. -/

namespace Sys2Proof.Proofs

open Sys2Proof.Machine

/-! ## Where the bytes of a command lie -/

/-- Settles O19: each operation a step can be keeps the form, since a command's bytes lie below 2^64 and so do those of a host access
that reaches memory. -/
theorem memoryFormKept : Obligations.MemoryFormKept := by
  intro s t h hs
  cases stepTo_of_step hs with
  | completes p d e due flight => exact .of_idle (wf_memAfter h.1 (inFlight_confined flight)) rfl
  | quiet => exact memoryInv_heard _ h
  | loadReg _ _ _ rest r => exact memoryInv_readReg r (memoryInv_heard rest h)
  | loadMem _ addr n rest => exact (memoryInv_heard rest h).of_sameInFlight (loadMem_sameInFlight ..) h.1
  | storeReg _ _ bytes rest r => exact memoryInv_writeReg r _ (memoryInv_heard rest h)
  | storeMem _ addr bytes rest _ reach => exact memoryInv_storeMem (memoryInv_heard rest h) reach
  | resets _ rest => exact memoryInv_resetNow (memoryInv_heard rest h)

/-- Settles O25: STATUS after a command depends on its effect only, and so do the bytes it can change. -/
theorem raceKeepsStatus : Obligations.RaceKeepsStatus := by
  intro i s t u p hr hw hp ht hu
  rw [exec_eq, latched_of_pend hp] at ht
  rw [exec_eq, latched_of_pend rfl] at hu
  cases ht
  cases hu
  exact ⟨rfl, fun a ha => ⟨read_memAfter_out ha, read_memAfter_out ha⟩⟩

/-- Settles O26: two memories that agree on the bytes read take the same way through the checks and loops of every command. -/
theorem effectDependsOnReadSet : Obligations.EffectDependsOnReadSet :=
  fun _ _ _ _ h => effectOf_congr h

/-- Settles O27: every command is confined. -/
theorem writesAreDisjoint : Obligations.WritesAreDisjoint := fun i p x =>
  have h := effectOf_confined i p x
  ⟨writeBytes_nodup h.apart, h.unread⟩

/-- Settles O28: every command is confined. -/
theorem engineStaysInMemory : Obligations.EngineStaysInMemory := by
  intro i p x r hr
  have h := effectOf_confined i p x
  have hadm : r.Admitted p := (List.mem_append.mp hr).elim (h.reads r) (h.writes r)
  exact ⟨hadm.top, hadm.window⟩

/-! ## Packed ADCs and the expansions -/

/-- Settles O34: both forms are fields of the bytes of the packed words. -/
theorem packedAdcExtraction : Obligations.PackedAdcExtraction := by
  refine ⟨fun m S k hk => ?_, fun m S g a b c _ ha hb hc => ?_⟩
  · rw [adcS_eq_fld m S hk, fld_eq]
  · have hwords : memRead m (S + 16 + 24 * g) 24 = a + 2 ^ 64 * (b + 2 ^ 64 * c) := by
      rw [memRead_add m _ 8 16, memRead_add m _ 8 8, ha, hb, hc]
      ring_nf
    have hlt (v : Nat) (q : Nat) (hv : v = memRead m q 8) : v < 2 ^ 64 := hv ▸ memRead_lt m q 8
    rw [← fields_of_words (hlt a _ ha) (hlt b _ hb) (hlt c _ hc), ← hwords]
    exact List.map_congr_left fun i hi => adcS_group m S g (List.mem_range.mp hi)

/-- Settles O35: with the checks of R172 passed the effect is to store the stream's elements. -/
theorem exp64Expands : Obligations.Exp64Expands := by
  rintro s x rfl hs hd hsrc hread hdst hwrite hapart hdisc
  have he := expandEffect_done (l := streamElements s.latched.mem (s.latched.arg 2) (s.latched.arg 0))
    (expCheck_passes hs hd hsrc hread hdst hwrite hapart)
  obtain ⟨t, ht, hst⟩ := exec_stores (i := .exp64) he hdisc
  refine ⟨t, ht, hst.finished, fun k hk => ?_, hst.sameMemoryOutside fun st hm => ?_, hst.results, hst.walker⟩
  · rw [hst.elements (_, _) (List.mem_map_of_mem (List.mem_range.mpr hk)), element_toNat (adcS_lt _ _ _)]
  · obtain ⟨k, hk, rfl⟩ := List.mem_map.mp hm
    exact List.mem_map_of_mem hk

/-- Settles O36, as O35 with the elements of a frame, whose channels are the two streams' ADCs. -/
theorem exp128Expands : Obligations.Exp128Expands := by
  rintro s x rfl hs hd hsrc hread hdst hwrite hapart hdisc
  have he := expandEffect_done (l := frameElements s.latched.mem (s.latched.arg 2) (s.latched.arg 0))
    (expCheck_passes hs hd hsrc hread hdst hwrite hapart)
  obtain ⟨t, ht, hst⟩ := exec_stores (i := .exp128) he hdisc
  have helem (c : Nat) (hc : c < 128) :
      memRead t.mem (s.latched.arg 0 + 2 * c) 2 = adcF s.latched.mem (s.latched.arg 2) c := by
    rw [hst.elements (_, _) (List.mem_map_of_mem (mem_channels.mpr hc)), element_toNat (adcF_lt _ _ _)]
  refine ⟨t, ht, hst.finished, fun k hk => ⟨?_, ?_⟩, hst.sameMemoryOutside fun st hm => ?_, hst.results, hst.walker⟩
  · rw [helem k (by omega), adcF_stream0 _ _ hk]
  · rw [helem (64 + k) (by omega), adcF_stream1 _ _ hk]
  · obtain ⟨c, hc, rfl⟩ := List.mem_map.mp hm
    exact List.mem_map_of_mem hc

/-- Settles O37, as O35 with the grid of N frames' elements. -/
theorem exp128nExpands : Obligations.Exp128nExpands := by
  rintro s x rfl hN hs hd hsrc hread hdst hwrite hapart hdisc
  have he := (exp128nEffect_frames hN).trans
    (expandEffect_done (expCheck_passes hs hd hsrc hread hdst hwrite hapart))
  obtain ⟨t, ht, hst⟩ := exec_stores (i := .exp128n) he hdisc
  refine ⟨t, ht, hst.finished, fun f c hf hc => ?_, hst.sameMemoryOutside fun st hm => ?_, hst.results, hst.walker⟩
  · exact (hst.elements (_, _) (mem_gridStores.mpr ⟨c, f, hc, hf, rfl⟩)).trans (element_toNat (adcF_lt _ _ _))
  · obtain ⟨c, f, hc, hf, rfl⟩ := mem_gridStores.mp hm
    exact List.mem_map.mpr ⟨128 * f + c, List.mem_range.mpr (by omega), rfl⟩

/-! ## Payloads and descriptors -/

/-- Settles O49, by the outcomes of `parse` in their order. -/
theorem payloadParse : Obligations.PayloadParse := by
  intro p m base size o t hin ht
  rw [← fld_eq] at ht
  refine ⟨parse_areaEnd, fun hlt hend => parse_headerPastEnd (Nat.ne_of_lt hlt) hend, parse_busError,
    fun hhead hok => ⟨fun hty => ?_, fun sz hsz => ⟨fun hlong => ?_, fun hfit => ?_⟩⟩⟩
  · exact parse_badType hhead hok ht.symm (bodySize_of_unknown hty)
  · exact parse_bodyPastEnd hhead hok ht.symm (bodySize_of_code hsz) hlong
  · rw [parse_payload hhead hok ht.symm (bodySize_of_code hsz) hfit, fld_eq]

/-- Settles O58: the checks in their order, then the fields of the descriptor. -/
theorem tocdscReadsDescriptor : Obligations.TocdscReadsDescriptor := by
  rintro s x a d rfl rfl rfl
  have hfault {c : FaultCode} (hc : tocdscCheck s.params s.latched = some c) : Claims.FaultsWith .tocdsc s c.code :=
    faultsWith_of_verdict (by rw [effectOf, tocdscEffect_fault hc]; rfl)
  have hindex (h : s.latched.arg 1 ≤ s.latched.arg 2) : decide (s.latched.arg 2 < s.latched.arg 1) = false := by simpa using h
  refine ⟨fun h => ?_, fun hi hal => ?_, fun hi hal hbus => ?_, fun hi hal htop hok hdisc => ?_⟩
  · exact hfault (c := .tocIndex) (by rw [tocdscCheck, decide_eq_true h, tocCheck_index])
  · exact hfault (c := .align) (by rw [tocdscCheck, hindex hi, tocCheck_align hal])
  · exact hfault (c := .bus) (by rw [tocdscCheck, hindex hi]; exact tocCheck_bus hal (accessOk_false hbus))
  · have hc : tocdscCheck s.params s.latched = none :=
      tocCheck_none.mpr ⟨hindex hi, hal, accessOk_iff.mpr ⟨htop, hok⟩⟩
    obtain ⟨t, ht, hfin, hres, hout, hmem, hwalk⟩ := exec_results (i := .tocdsc) (tocdscEffect_done hc rfl rfl) hdisc
    rw [tocdscResults, writeResults_five, descFormat_eq, descType_eq, packetAddr, descAddr, descOffset_memRead] at hres
    rw [descType_eq] at hfin
    refine ⟨t, ht, hfin, ?_, ?_, ?_, ?_, ?_, hout, hmem, hwalk⟩ <;> rw [hres]
    · rfl
    · rfl
    · rfl
    · exact (toWord_bit _).trans (by simp)
    · rfl

/-- Settles O59: the checks in their order, the order of the offsets, then the length and what it gives. -/
theorem toclenMeasuresPacket : Obligations.ToclenMeasuresPacket := by
  rintro s x a d0 d1 rfl rfl rfl rfl
  have hfault {c : FaultCode} (hc : toclenCheck s.params s.latched = some c) : Claims.FaultsWith .toclen s c.code :=
    faultsWith_of_verdict (by rw [effectOf, toclenEffect_fault hc]; rfl)
  have hindex (h : s.latched.arg 1 < s.latched.arg 2) : decide (s.latched.arg 2 ≤ s.latched.arg 1) = false := by simpa using h
  refine ⟨fun h => ?_, fun hi hal => ?_, fun hi hal hbus => ?_, fun hi hal htop hok => ?_⟩
  · exact hfault (c := .tocIndex) (by rw [toclenCheck, decide_eq_true h, tocCheck_index])
  · exact hfault (c := .align) (by rw [toclenCheck, hindex hi, tocCheck_align hal])
  · exact hfault (c := .bus) (by rw [toclenCheck, hindex hi]; exact tocCheck_bus hal (accessOk_false hbus))
  · have hc : toclenCheck s.params s.latched = none :=
      tocCheck_none.mpr ⟨hindex hi, hal, accessOk_iff.mpr ⟨htop, hok⟩⟩
    refine ⟨fun hlt => ?_, fun len hlen hdisc => ?_⟩
    · rw [← descOffset_memRead, ← descOffset_memRead] at hlt
      exact faultsWith_of_verdict (c := .tocOrder) (by rw [effectOf, toclenEffect_order hc rfl rfl rfl hlt]; rfl)
    · rw [← descOffset_memRead, ← descOffset_memRead] at hlen
      obtain ⟨t, ht, hfin, hres, hout, hmem, hwalk⟩ :=
        exec_results (i := .toclen) (toclenEffect_done hc rfl rfl rfl hlen) hdisc
      rw [toclenResults, writeResults_five, descType_eq, packetAddr, descAddr, descOffset_memRead] at hres
      rw [descType_eq, ← Bool.decide_and] at hfin
      refine ⟨t, ht, hfin, ?_, ?_, ?_, ?_, ?_, hout, hmem, hwalk⟩ <;> rw [hres]
      · rfl
      · exact apply_ite toWord ..
      · rfl
      · rfl
      · rfl

/-! ## The host's loads and stores -/

/-- Settles O13: a completion leaves unacquired the old bytes of its write set, and a load of STATUS with BUSY = 0 acquires them. -/
theorem statusReadAcquiresMemory : Obligations.StatusReadAcquiresMemory := by
  refine ⟨fun s addr bytes rest ht hm hi => ?_, fun s addr n rest ht hm hi => ?_,
    fun s t p addr n rest hd hu hs hm hi => ?_, fun s addr n rest hp hb hm hi => ?_⟩
  · exact ⟨_, step_storeMem ht hm hi, fun k b hk => read_storeBytes_in _ _ _ _ _ hk, fun a ha => read_storeBytes_out _ _ _ _ ha,
      rfl, rfl, rfl, rfl, rfl, (heard_sameInFlight s rest).trans (storeMem_sameInFlight ..), rfl, rfl⟩
  · refine ⟨_, _, step_loadMem ht hm hi, rfl, loadBytes_length .., fun k hk hfl hun => ?_, ⟨rfl, rfl, rfl, rfl, rfl, rfl⟩,
      (heard_sameInFlight s rest).trans (loadMem_sameInFlight ..), rfl⟩
    rw [loadBytes_get hk, loadByte_settled (by simpa using hfl) (by simpa using hun), heard_mem]
  · obtain ⟨d, e, -, hc⟩ := step_completes hd
    obtain rfl : s.complete d e = t := by simpa [hc] using hs
    refine ⟨_, _, step_loadMem (hostTurn_of_idle rfl) hm hi, rfl, loadBytes_length .., fun k hk => ?_⟩
    rw [loadBytes_get hk, Option.some.injEq, Option.some.injEq]
    exact loadByte_of_complete hu rfl rfl rfl
  · have hs := step_loadSlot (hostTurn_of_idle hp) (by omega) hi
    have hreg : regAt 1 = .status := rfl
    have hpend : (s.heard (.load addr n :: rest)).pend = none := by simp [hp]
    rw [hreg, readReg_status_acquires (s := s.heard _) hb] at hs
    refine ⟨_, _, hs, step_loadMem (hostTurn_of_idle hpend) hm rfl, rfl, rfl, ?_, ⟨rfl, rfl, rfl, rfl, rfl, rfl⟩⟩
    rw [loadMem_replies, loadBytes_settled (by simp [hp]) rfl]
    rfl

end Sys2Proof.Proofs
end

section
/-! SUPPORT. Command words by their fields (30_encoding R100..R106): the immediates a command carries, when a word decodes to a command,
when it is the command's encoding, and when it matches the command's row of the opcode table. -/

namespace Sys2Proof

open Sys2Proof.Machine

/-! ## The two formats (R102, R103) -/

/-- OFF and WID of a command of format FB; a command of format F0 carries none. -/
def Instr.immediates : Instr → Option (Nat × Nat)
  | .bfx32 off wid => some (off, wid)
  | .bfx64 off wid => some (off, wid)
  | _ => none

/-- The immediate bits of a word that must be 0 for a command of this format: CMD[31:8] of F0, CMD[31:21] of FB. -/
def Instr.reservedBits (i : Instr) (v : Nat) : Nat :=
  match i.immediates with
  | none => fld v 8 24
  | some _ => fld v 21 11

theorem opcode_lt (i : Instr) : i.opcode < 256 := by
  cases i <;> simp [Instr.opcode]

theorem encode_plain {i : Instr} (h : i.immediates = none) : encode i = BitVec.ofNat 64 i.opcode := by
  cases i with
  | bfx32 | bfx64 => cases h
  | _ => rfl

theorem encode_field {i : Instr} {off wid : Nat} (h : i.immediates = some (off, wid)) :
    encode i = encodeFB i.opcode off wid := by
  cases i with
  | bfx32 | bfx64 => cases h; rfl
  | _ => cases h

theorem wellFormed_plain {i : Instr} (h : i.immediates = none) : i.wellFormed = true := by
  cases i with
  | bfx32 | bfx64 => cases h
  | _ => rfl

theorem wellFormed_field {i : Instr} {off wid : Nat} (h : i.immediates = some (off, wid)) :
    i.wellFormed = true ↔ off < 64 ∧ wid < 128 := by
  cases i with
  | bfx32 | bfx64 => cases h; simp [Instr.wellFormed]
  | _ => cases h

/-! ## The fields of a word against a command -/

/-- The word `v` is one of the command's row: CMD[63:32] is 0, OPC is the command's, and the reserved immediate bits are 0 (R106). -/
structure Instr.Selected (i : Instr) (v : Nat) : Prop where
  high : fld v 32 32 = 0
  opc : fld v 0 8 = i.opcode
  reserved : i.reservedBits v = 0

/-- The word `v` is one of the command's row and its OFF and WID are the command's immediates. -/
structure Instr.Carried (i : Instr) (v : Nat) : Prop extends i.Selected v where
  imm : ∀ p ∈ i.immediates, p = (fieldOff v, fieldWid v)

theorem Instr.selected_iff {i : Instr} {v : Nat} :
    i.Selected v ↔ fld v 32 32 = 0 ∧ fld v 0 8 = i.opcode ∧ i.reservedBits v = 0 :=
  ⟨fun ⟨hhigh, hopc, hres⟩ => ⟨hhigh, hopc, hres⟩, fun ⟨hhigh, hopc, hres⟩ => ⟨hhigh, hopc, hres⟩⟩

theorem selected_plain {i : Instr} (h : i.immediates = none) {v : Nat} :
    i.Selected v ↔ fld v 32 32 = 0 ∧ fld v 0 8 = i.opcode ∧ fld v 8 24 = 0 := by
  simp [Instr.selected_iff, Instr.reservedBits, h]

theorem selected_field {i : Instr} {p : Nat × Nat} (h : i.immediates = some p) {v : Nat} :
    i.Selected v ↔ fld v 32 32 = 0 ∧ fld v 0 8 = i.opcode ∧ fld v 21 11 = 0 := by
  simp [Instr.selected_iff, Instr.reservedBits, h]

theorem carried_plain {i : Instr} (h : i.immediates = none) {v : Nat} : i.Carried v ↔ i.Selected v :=
  ⟨fun hc => hc.toSelected, fun hs => ⟨hs, by simp [h]⟩⟩

theorem carried_field {i : Instr} {off wid : Nat} (h : i.immediates = some (off, wid)) {v : Nat} :
    i.Carried v ↔ i.Selected v ∧ off = fieldOff v ∧ wid = fieldWid v := by
  constructor
  · rintro ⟨hs, himm⟩
    exact ⟨hs, Prod.mk.inj (himm _ h)⟩
  · rintro ⟨hs, rfl, rfl⟩
    exact ⟨hs, by simp [h]⟩

/-- A word of a row carries a command of that row: the one with the word's own OFF and WID. -/
theorem Instr.Selected.exists_carried {i : Instr} {v : Nat} (h : i.Selected v) :
    ∃ j : Instr, j.Carried v ∧ j.mnemonic = i.mnemonic := by
  cases i with
  | bfx32 => exact ⟨.bfx32 (fieldOff v) (fieldWid v), (carried_field rfl).mpr ⟨⟨h.high, h.opc, h.reserved⟩, rfl, rfl⟩, rfl⟩
  | bfx64 => exact ⟨.bfx64 (fieldOff v) (fieldWid v), (carried_field rfl).mpr ⟨⟨h.high, h.opc, h.reserved⟩, rfl, rfl⟩, rfl⟩
  | _ => exact ⟨_, (carried_plain rfl).mpr h, rfl⟩

/-! ## Decoding (R105, R106) -/

theorem decodeF0_ok {v : Nat} {i j : Instr} : decodeF0 v i = .ok j ↔ fld v 8 24 = 0 ∧ i = j := by
  unfold decodeF0
  split <;> simp_all

theorem decodeFB_ok {v : Nat} {i j : Instr} : decodeFB v i = .ok j ↔ fld v 21 11 = 0 ∧ i = j := by
  unfold decodeFB
  split <;> simp_all

/-- An arm of the decoder of format F0. -/
theorem carried_of_decodeF0 {v : Nat} {i j : Instr} (hhigh : fld v 32 32 = 0) (hopc : fld v 0 8 = i.opcode)
    (himm : i.immediates = none) (h : decodeF0 v i = .ok j) : j.Carried v := by
  obtain ⟨hres, rfl⟩ := decodeF0_ok.mp h
  exact (carried_plain himm).mpr ((selected_plain himm).mpr ⟨hhigh, hopc, hres⟩)

/-- An arm of the decoder of format FB. -/
theorem carried_of_decodeFB {v : Nat} {i j : Instr} (hhigh : fld v 32 32 = 0) (hopc : fld v 0 8 = i.opcode)
    (himm : i.immediates = some (fieldOff v, fieldWid v)) (h : decodeFB v i = .ok j) : j.Carried v := by
  obtain ⟨hres, rfl⟩ := decodeFB_ok.mp h
  exact (carried_field himm).mpr ⟨(selected_field himm).mpr ⟨hhigh, hopc, hres⟩, rfl, rfl⟩

theorem carried_of_decodeNat {v : Nat} {i : Instr} (h : decodeNat v = .ok i) : i.Carried v := by
  unfold decodeNat at h
  split at h
  · cases h
  · next hhigh =>
    rw [not_not] at hhigh
    split at h
    case h_2 hopc => exact carried_of_decodeFB (i := .bfx32 _ _) hhigh hopc rfl h
    case h_3 hopc => exact carried_of_decodeFB (i := .bfx64 _ _) hhigh hopc rfl h
    case h_24 => cases h
    all_goals exact carried_of_decodeF0 hhigh ‹fld v 0 8 = _› rfl h

theorem decodeNat_of_carried {v : Nat} {i : Instr} (h : i.Carried v) : decodeNat v = .ok i := by
  obtain ⟨⟨hhigh, hopc, hres⟩, himm⟩ := h
  rw [decodeNat, if_neg (not_not.mpr hhigh), hopc]
  cases i with
  | bfx32 off wid | bfx64 off wid =>
    obtain ⟨rfl, rfl⟩ := Prod.mk.inj (himm (off, wid) rfl)
    exact decodeFB_ok.mpr ⟨hres, rfl⟩
  | _ => exact decodeF0_ok.mpr ⟨hres, rfl⟩

/-- A word decodes to a command iff its fields are the command's (R106). -/
theorem decode_ok_iff {v : Word} {i : Instr} : decode v = .ok i ↔ i.Carried v.toNat :=
  ⟨carried_of_decodeNat, decodeNat_of_carried⟩

theorem decode_ne_ok {v : Word} {e : DecodeError} (h : decode v = .error e) (i : Instr) : decode v ≠ .ok i := by
  simp [h]

/-! ## Encoding (R101..R103) -/

/-- A word is an opcode and nothing else iff its other bits are 0. -/
theorem ofNat_opcode_eq_iff {opc : Nat} (h : opc < 256) (v : Word) :
    BitVec.ofNat 64 opc = v ↔ fld v.toNat 32 32 = 0 ∧ fld v.toNat 0 8 = opc ∧ fld v.toNat 8 24 = 0 := by
  have hv := v.isLt
  rw [← BitVec.toNat_inj, BitVec.toNat_ofNat]
  simp only [fld_eq]
  omega

/-- OPC, OFF and WID fill CMD[20:0] without overlap, and the rest of the word is 0. -/
theorem encodeFB_eq_iff {opc : Nat} (h : opc < 256) (off wid : Nat) (v : Word) :
    (off < 64 ∧ wid < 128) ∧ encodeFB opc off wid = v ↔
      (fld v.toNat 32 32 = 0 ∧ fld v.toNat 0 8 = opc ∧ fld v.toNat 21 11 = 0) ∧
        off = fieldOff v.toNat ∧ wid = fieldWid v.toNat := by
  have hv := v.isLt
  rw [← BitVec.toNat_inj, encodeFB, BitVec.toNat_ofNat]
  simp only [fieldOff, fieldWid, fld_eq]
  omega

/-- A word is the encoding of a well-formed command iff its fields are the command's. -/
theorem encode_eq_iff {v : Word} {i : Instr} : i.wellFormed = true ∧ encode i = v ↔ i.Carried v.toNat := by
  cases h : i.immediates with
  | none =>
    rw [carried_plain h, selected_plain h, encode_plain h, ← ofNat_opcode_eq_iff (opcode_lt i)]
    exact and_iff_right (wellFormed_plain h)
  | some p =>
    rw [carried_field h, selected_field h, encode_field h, wellFormed_field h]
    exact encodeFB_eq_iff (opcode_lt i) ..

/-- A word decodes to a command iff it is the encoding of that command and the command is well-formed. -/
theorem decode_ok_iff_encode {v : Word} {i : Instr} : decode v = .ok i ↔ i.wellFormed = true ∧ encode i = v :=
  decode_ok_iff.trans encode_eq_iff.symm

theorem decode_encode {i : Instr} (h : i.wellFormed = true) : decode (encode i) = .ok i :=
  decode_ok_iff_encode.mpr ⟨h, rfl⟩

/-! ## Legality by fields (R106) -/

/-- One command for each row of the opcode table, in the table's order. -/
def tableCommands : List Instr :=
  [.nop, .bfx32 0 0, .bfx64 0 0, .hdr, .exp64, .exp128, .exp128n, .trc1, .trc8, .trc16, .trc32, .trcn,
   .trp1, .trp8, .trp16, .trp32, .trpn, .winit, .wnext, .wget, .scan, .tocdsc, .toclen]

/-- The opcodes of format F0 in the map of R105. -/
def plainOpcodes : List Nat := (tableCommands.filter fun i => i.immediates.isNone).map Instr.opcode

theorem mem_plainOpcodes {n : Nat} : n ∈ plainOpcodes ↔ ∃ i : Instr, i.immediates = none ∧ i.opcode = n := by
  have hlisted {i : Instr} (h : i.immediates = none) : i ∈ tableCommands := by
    cases i with
    | bfx32 | bfx64 => cases h
    | _ => decide
  simp only [plainOpcodes, List.mem_map, List.mem_filter, Option.isNone_iff_eq_none]
  exact ⟨fun ⟨i, ⟨_, h⟩, hn⟩ => ⟨i, h, hn⟩, fun ⟨i, h, hn⟩ => ⟨i, ⟨hlisted h, h⟩, hn⟩⟩

theorem mem_fieldOpcodes {n : Nat} : n ∈ [0x10, 0x11] ↔ ∃ (i : Instr) (p : Nat × Nat), i.immediates = some p ∧ i.opcode = n := by
  constructor
  · intro h
    simp only [List.mem_cons, List.not_mem_nil, or_false] at h
    rcases h with rfl | rfl
    · exact ⟨.bfx32 0 0, _, rfl, rfl⟩
    · exact ⟨.bfx64 0 0, _, rfl, rfl⟩
  · rintro ⟨i, p, h, rfl⟩
    cases i with
    | bfx32 | bfx64 => simp [Instr.opcode]
    | _ => cases h

/-- A word is legal iff it is one of some command's row. -/
theorem legal_iff_selected {v : Word} : (∃ i, decode v = .ok i) ↔ ∃ i : Instr, i.Selected v.toNat := by
  constructor
  · rintro ⟨i, h⟩
    exact ⟨i, (decode_ok_iff.mp h).toSelected⟩
  · rintro ⟨i, h⟩
    obtain ⟨j, hj, -⟩ := h.exists_carried
    exact ⟨j, decode_ok_iff.mpr hj⟩

/-- The legality rule of R106 by fields. -/
theorem legal_iff_fields {v : Word} :
    (∃ i, decode v = .ok i) ↔
      v.toNat / 2 ^ 32 = 0 ∧
        (v.toNat % 256 ∈ plainOpcodes ∧ v.toNat / 2 ^ 8 % 2 ^ 24 = 0 ∨
          v.toNat % 256 ∈ [0x10, 0x11] ∧ v.toNat / 2 ^ 21 % 2 ^ 11 = 0) := by
  have hhigh : fld v.toNat 32 32 = v.toNat / 2 ^ 32 := by
    have hv := v.isLt
    rw [fld_eq]
    omega
  have hopc : fld v.toNat 0 8 = v.toNat % 256 := by simp [fld_eq]
  rw [legal_iff_selected, mem_plainOpcodes, mem_fieldOpcodes, ← hhigh, ← hopc, ← fld_eq, ← fld_eq]
  constructor
  · rintro ⟨i, hs⟩
    cases h : i.immediates with
    | none =>
      obtain ⟨hi, ho, hr⟩ := (selected_plain h).mp hs
      exact ⟨hi, .inl ⟨⟨i, h, ho.symm⟩, hr⟩⟩
    | some p =>
      obtain ⟨hi, ho, hr⟩ := (selected_field h).mp hs
      exact ⟨hi, .inr ⟨⟨i, p, h, ho.symm⟩, hr⟩⟩
  · rintro ⟨hi, ⟨⟨i, h, ho⟩, hr⟩ | ⟨⟨i, p, h, ho⟩, hr⟩⟩
    · exact ⟨i, (selected_plain h).mpr ⟨hi, ho.symm, hr⟩⟩
    · exact ⟨i, (selected_field h).mpr ⟨hi, ho.symm, hr⟩⟩

/-! ## Legality by the rows of the opcode table (R106) -/

/-- A command's row of the opcode table. -/
def Instr.row (i : Instr) : OpcodeRow :=
  match i.immediates with
  | none => rowF0 i.mnemonic (BitVec.ofNat 64 i.opcode)
  | some _ => rowFB i.mnemonic (BitVec.ofNat 64 i.opcode)

theorem Instr.row_plain {i : Instr} (h : i.immediates = none) : i.row = rowF0 i.mnemonic (BitVec.ofNat 64 i.opcode) := by
  simp [Instr.row, h]

theorem Instr.row_field {i : Instr} {p : Nat × Nat} (h : i.immediates = some p) :
    i.row = rowFB i.mnemonic (BitVec.ofNat 64 i.opcode) := by
  simp [Instr.row, h]

@[simp] theorem Instr.row_mnemonic (i : Instr) : i.row.mnemonic = i.mnemonic := by
  cases i <;> rfl

theorem opcodeTable_eq : opcodeTable = tableCommands.map Instr.row := rfl

theorem row_mem_opcodeTable (i : Instr) : i.row ∈ opcodeTable := by
  cases i with
  | bfx32 => exact List.mem_map_of_mem (f := Instr.row) (a := .bfx32 0 0) (by decide : _ ∈ tableCommands)
  | bfx64 => exact List.mem_map_of_mem (f := Instr.row) (a := .bfx64 0 0) (by decide : _ ∈ tableCommands)
  | _ => exact List.mem_map_of_mem (by decide : _ ∈ tableCommands)

theorem opcodeTable_mnemonics_nodup : (opcodeTable.map OpcodeRow.mnemonic).Nodup := by decide

/-- The mnemonic names the row. -/
theorem row_eq_of_mnemonic_eq {i j : Instr} (h : i.mnemonic = j.mnemonic) : i.row = j.row :=
  List.inj_on_of_nodup_map opcodeTable_mnemonics_nodup (row_mem_opcodeTable i) (row_mem_opcodeTable j) (by simpa using h)

/-- A row of format F0 fixes every bit. -/
theorem rowF0_holds (m : String) (p v : Word) : (rowF0 m p).holds v = true ↔ p = v := by
  have hmask : v &&& 0xFFFFFFFFFFFFFFFF = v := BitVec.and_allOnes
  rw [OpcodeRow.holds, rowF0, beq_iff_eq, hmask, eq_comm]

/-- The mask of format FB keeps CMD[7:0] and CMD[63:21]. -/
theorem maskFB_getLsbD {k : Nat} (hk : k < 64) :
    (0xFFFFFFFFFFE000FF : Word).getLsbD k = (decide (k < 8) || decide (21 ≤ k)) := by
  revert k
  decide

theorem and_maskFB_toNat (v : Word) :
    (v &&& 0xFFFFFFFFFFE000FF).toNat = 2 ^ 21 * (v.toNat / 2 ^ 21) + v.toNat % 2 ^ 8 := by
  refine Nat.eq_of_testBit_eq fun k => ?_
  have hlow : v.toNat % 2 ^ 8 < 2 ^ 21 := by omega
  rw [Nat.testBit_two_pow_mul_add _ hlow, Nat.testBit_div_two_pow, Nat.testBit_mod_two_pow, BitVec.testBit_toNat,
    BitVec.testBit_toNat, BitVec.getLsbD_and]
  by_cases hk : k < 64
  · rw [maskFB_getLsbD hk]
    by_cases h21 : k < 21
    · simp [h21, show ¬ 21 ≤ k by omega, Bool.and_comm]
    · simp [h21, show 21 ≤ k by omega, show k - 21 + 21 = k by omega, BitVec.testBit_toNat]
  · have h21 : ¬ k < 21 := by omega
    simp [h21, show k - 21 + 21 = k by omega, BitVec.testBit_toNat, BitVec.getLsbD_of_ge v k (by omega)]

/-- A row of format FB leaves OFF and WID free. -/
theorem rowFB_holds (m : String) {opc : Nat} (h : opc < 256) (v : Word) :
    (rowFB m (BitVec.ofNat 64 opc)).holds v = true ↔
      fld v.toNat 32 32 = 0 ∧ fld v.toNat 0 8 = opc ∧ fld v.toNat 21 11 = 0 := by
  have hv := v.isLt
  rw [OpcodeRow.holds, rowFB, beq_iff_eq, ← BitVec.toNat_inj, and_maskFB_toNat, BitVec.toNat_ofNat]
  simp only [fld_eq]
  omega

theorem row_holds_iff_selected {v : Word} {i : Instr} : i.row.holds v = true ↔ i.Selected v.toNat := by
  cases h : i.immediates with
  | none => rw [Instr.row_plain h, selected_plain h, rowF0_holds, ofNat_opcode_eq_iff (opcode_lt i)]
  | some p => rw [Instr.row_field h, selected_field h, rowFB_holds _ (opcode_lt i)]

/-- A word matches a row of the table iff it decodes to a command of the row's mnemonic. -/
theorem row_holds_iff_decode {v : Word} {r : OpcodeRow} (hr : r ∈ opcodeTable) :
    r.holds v = true ↔ ∃ i, decode v = .ok i ∧ r.mnemonic = i.mnemonic := by
  rw [opcodeTable_eq] at hr
  obtain ⟨j, -, rfl⟩ := List.mem_map.mp hr
  rw [Instr.row_mnemonic]
  constructor
  · intro h
    obtain ⟨i, hi, hm⟩ := (row_holds_iff_selected.mp h).exists_carried
    exact ⟨i, decode_ok_iff.mpr hi, hm.symm⟩
  · rintro ⟨i, hi, hm⟩
    rw [row_eq_of_mnemonic_eq hm]
    exact row_holds_iff_selected.mpr (decode_ok_iff.mp hi).toSelected

/-- The row a legal word matches is that of its mnemonic. -/
theorem row_holds_of_decode {v : Word} {i : Instr} (h : decode v = .ok i) {r : OpcodeRow} (hr : r ∈ opcodeTable) :
    r.holds v = true ↔ r.mnemonic = i.mnemonic := by
  rw [row_holds_iff_decode hr]
  simp [h]

theorem matching_rows_length {v : Word} {i : Instr} (h : decode v = .ok i) :
    (opcodeTable.filter fun r => r.holds v).length = 1 := by
  have hcongr : opcodeTable.countP (fun r => r.holds v) = opcodeTable.countP fun r => r.mnemonic == i.mnemonic :=
    List.countP_congr fun r hr => by rw [row_holds_of_decode h hr, beq_iff_eq]
  calc (opcodeTable.filter fun r => r.holds v).length
      = opcodeTable.countP fun r => r.mnemonic == i.mnemonic := by rw [← List.countP_eq_length_filter, hcongr]
    _ = (opcodeTable.map OpcodeRow.mnemonic).count i.mnemonic := by rw [List.count, List.countP_map]; rfl
    _ = 1 := List.count_eq_one_of_mem opcodeTable_mnemonics_nodup
        (List.mem_map.mpr ⟨i.row, row_mem_opcodeTable i, i.row_mnemonic⟩)

/-- The legality rule of R106 by the rows of the table. -/
theorem legal_iff_one_row {v : Word} :
    (∃ i, decode v = .ok i) ↔ (opcodeTable.filter fun r => r.holds v).length = 1 := by
  constructor
  · rintro ⟨i, h⟩
    exact matching_rows_length h
  · intro h
    obtain ⟨r, hr⟩ := List.exists_mem_of_length_pos (l := opcodeTable.filter fun r => r.holds v) (by omega)
    obtain ⟨hmem, hholds⟩ := List.mem_filter.mp hr
    obtain ⟨i, hi, -⟩ := (row_holds_iff_decode hmem).mp hholds
    exact ⟨i, hi⟩

end Sys2Proof
end

section
/-! CERTIFICATE. The statements of the encoding (30_encoding), and the completion of an illegal command word. -/

namespace Sys2Proof.Proofs

open Sys2Proof.Machine

/-- Settles O1: the encoding of a well-formed command has the command's fields, and a word decodes by its fields. -/
theorem decodeEncodeRoundTrip : Obligations.DecodeEncodeRoundTrip := fun _ => decode_encode

/-- Settles O2: the fields of a legal word are those of a well-formed command, and they fix every bit of it. -/
theorem encodeDecodeExact : Obligations.EncodeDecodeExact := fun _ _ h => (decode_ok_iff_encode.mp h).symm

/-- Settles O3: legality by fields, by the number of matching rows, and the row that matches. -/
theorem legalWordsAreTableRows : Obligations.LegalWordsAreTableRows := fun _ =>
  ⟨legal_iff_fields, legal_iff_one_row, fun _ h _ hr => row_holds_of_decode h hr⟩

/-- Settles O4: the legal words are encodings, and the two others are rejected. -/
theorem sampleWordsDecode : Obligations.SampleWordsDecode := by
  have hopcode : decode 0x00000035 = .error .reservedOpcode := by decide
  have himm : decode 0x00000118 = .error .reservedBits := by decide
  exact ⟨decode_encode (i := .nop) rfl, decode_encode (i := .hdr) rfl, decode_encode (i := .trcn) rfl,
    decode_encode (i := .trpn) rfl, decode_encode (i := .scan) rfl, decode_encode (i := .bfx64 8 24) rfl,
    decode_encode (i := .bfx32 4 8) rfl, decode_encode (i := .bfx64 0 64) rfl, decode_encode (i := .bfx64 63 1) rfl,
    decode_encode (i := .bfx64 0 0) rfl, decode_ne_ok hopcode, decode_ne_ok himm⟩

/-- Settles O6: the engine's turn on an illegal word is a completion with E_ILLEGAL that lists no result register. -/
theorem illegalWordFaults : Obligations.IllegalWordFaults := by
  rintro s p e ⟨hp, hd⟩ he
  rcases engineTurn_cases s p.cmd with ⟨i, hi, -⟩ | ⟨_, -, hturn⟩
  · exact absurd hi (decode_ne_ok he i)
  · obtain ⟨hres, -⟩ := complete_fault (s := s) (d := []) (e := .raise .illegal) rfl
    exact ⟨_, (step_due hp hd).trans hturn, complete_faulted (c := .illegal) rfl, hres⟩

end Sys2Proof.Proofs
end

section
/-! SUPPORT. How many headers the loops of SCAN and WGET read (40_control R134), and the completion of a legal command word (R131), also
of one placed for the next step (log 13). -/

namespace Sys2Proof.Machine

/-! ## The headers a loop reads (R134) -/

/-- Each pass of SCAN's loop reads at most one header. -/
theorem scanLoop_reads_length (q : Params) (m : Memory) (fuel : Nat) (st : ScanState) :
    (scanLoop q m fuel st).reads.length ≤ fuel := by
  induction fuel generalizing st with
  | zero => simp [scanLoop]
  | succ fuel ih =>
    by_cases hrem : st.rem ≤ 0
    · simp [scanLoop_empty hrem]
    have hrem : 0 < st.rem := Int.not_le.mp hrem
    cases hok : accessOk q st.p 8 .read with
    | false => simp [scanLoop_bus hrem hok]
    | true =>
      by_cases hf : 2 < headerFormat (memRead m st.p 8)
      · simp [scanLoop_stop hrem hok hf]
      have hf := Nat.not_lt.mp hf
      by_cases hn : headerLength q (headerFormat (memRead m st.p 8)) (memRead m st.p 8) = 0
      · simp [scanLoop_zero hrem hok hf hn]
      · rw [scanLoop_pass hrem hok hf hn]
        exact Nat.succ_le_succ (ih _)

/-- A payload is its header and its body (45_walker R221). -/
theorem next_eq_of_parse {p : Params} {m : Memory} {base size o : Nat} {q : Payload} (h : parse p m base size o = .payload q) :
    q.next = o + p.phSize + q.size := by
  simp only [parse] at h
  split at h
  · cases h
  · split at h
    · cases h
    · split at h
      · cases h
      · split at h
        · cases h
        · split at h <;> cases h
          rfl

/-- A look at an offset reads at most one header, and none where no byte of the area is left. -/
theorem parseReads_length (p : Params) (base size o : Nat) : (parseReads p base size o).length ≤ min 1 (size - o) := by
  by_cases h : o + p.phSize ≤ size ∧ accessOk p (base + o) p.phSize .read = true
  · obtain ⟨hin, hok⟩ := h
    have hph := p.phSizeRange
    rw [parseReads_header hin hok, List.length_singleton]
    omega
  · simp [parseReads_unread h]

/-- WGET's re-scan from payload k, at offset o, reads a header for each payload up to j, and each of those takes a byte of the area. -/
theorem seek_reads_length (p : Params) (m : Memory) (base size : Nat) {j k : Nat} (fuel o : Nat) (hk : k ≤ j) :
    (seek p m base size j fuel o k).reads.length ≤ min (j + 1 - k) (size - o) := by
  induction fuel generalizing o k with
  | zero => simp [seek]
  | succ fuel ih =>
    have hhere := parseReads_length p base size o
    cases hp : parse p m base size o with
    | payload q =>
      by_cases hkj : k = j
      · rw [seek_found hp hkj]
        dsimp only
        omega
      · have hrest := ih q.next (show k + 1 ≤ j by omega)
        have hnext := next_eq_of_parse hp
        have hfit := parse_next_le hp
        have hph := p.phSizeRange
        rw [seek_next hp hkj, List.length_append]
        omega
    | _ =>
      rw [seek_stops (by simp [hp])]
      dsimp only
      omega

/-! ## The completion of a legal word -/

theorem engineTurn_legal {s : State} {v : Word} {i : Instr} (h : decode v = .ok i) : s.engineTurn v = exec i s := by
  simp [State.engineTurn, h]

theorem encode_lt {i : Instr} (h : i.wellFormed = true) : (encode i).toNat < 2 ^ 32 := by
  have hhigh := (decode_ok_iff.mp (decode_encode h)).high
  have hv := (encode i).isLt
  rw [fld_eq] at hhigh
  omega

/-- Placing a command's word is the accept of its encoding, with no delay. -/
theorem withFetchWord_encode (s : State) {i : Instr} (h : i.wellFormed = true) :
    s.withFetchWord 32 (encode i).toNat = s.accept (encode i) 0 := by
  rw [State.withFetchWord, State.issueWord, Nat.mod_eq_of_lt (encode_lt h), BitVec.ofNat_toNat, BitVec.setWidth_eq]

end Sys2Proof.Machine
end

section
/-! CERTIFICATE. The statements of how a command runs (40_control): the step that completes it, its faults, its loops, and NOP. -/

namespace Sys2Proof.Proofs

open Sys2Proof.Machine

/-- Settles O24, by how the command's effect ends. -/
theorem faultsArePrecise : Obligations.FaultsArePrecise := by
  intro i s t hs herr
  obtain rfl : s.complete (resultRegs i) (effectOf i s.params s.latched) = t := by simpa [exec_eq] using hs
  cases hv : (effectOf i s.params s.latched).verdict with
  | done c =>
    rw [(complete_finished hv).err] at herr
    cases herr
  | fault c =>
    obtain ⟨hne, hle⟩ := faultCode_range c
    have hpos : 1 ≤ c.code.toNat := Nat.one_le_iff_ne_zero.mpr fun h0 => hne (BitVec.eq_of_toNat_eq h0)
    exact ⟨c.code, hpos, hle, complete_faulted hv, complete_sameResultsOutside (effectOf_results_listed i _ _)⟩

/-- Settles O29: SCAN passes its loop at most once for each word of the length, WGET once for each payload up to the one asked for. -/
theorem loopsAreBounded : Obligations.LoopsAreBounded := by
  refine ⟨fun q x => ?_, fun p x => ?_⟩
  · by_cases h : 0 < (scanStart x).rem ∧ (scanStart x).p % 8 ≠ 0
    · simp [scanEffect_misaligned h, Effect.raise]
    · rw [scanEffect_runs h, scanEnded_reads]
      exact scanLoop_reads_length ..
  · by_cases h : x.walker.wstate = .none
    · simp [wgetEffect_unbound h, Effect.raise]
    · rw [wgetEffect_bound h, wgetFound_reads]
      exact seek_reads_length _ _ _ _ _ 0 (Nat.zero_le _)

/-- Settles O5: a word that decodes is the encoding of its command, and a placed word is an accepted one that is due. -/
theorem stepRunsDecodedCommand : Obligations.StepRunsDecodedCommand := by
  refine ⟨fun s p i ⟨hp, hd⟩ hi => ?_, fun s i hw => ?_⟩
  · obtain ⟨hw, -⟩ := decode_ok_iff_encode.mp hi
    exact ⟨hw, (step_due hp hd).trans (engineTurn_legal hi)⟩
  · rw [withFetchWord_encode s hw]
    exact (step_due (accept_pend ..) rfl).trans (engineTurn_legal (decode_encode hw))

/-- Settles O30: NOP's effect reads and writes nothing, so no access of the host races it. -/
theorem nopCompletes : Obligations.NopCompletes := by
  intro s
  obtain ⟨t, hs, hfin, hres, -, hmem, hwalk⟩ := exec_results (i := .nop) (s := s) rfl (raced_of_quiet rfl rfl)
  exact ⟨t, hs, hfin, hmem, hres, hwalk⟩

end Sys2Proof.Proofs
end

section
/-! SUPPORT. Bit-field extraction from a word of any width (41_bitfield R150, R151): what it does, and the command that ends in it. -/

namespace Sys2Proof.Machine

/-- A field that fits in the word goes to R0 and its nonzeroness to COND. -/
theorem extractEffect_fits {width off wid : Nat} (x : Nat) (h : off + wid ≤ width) :
    extractEffect width x off wid =
      { verdict := .done (decide (x / 2 ^ off % 2 ^ wid ≠ 0)), results := [(0, toWord (x / 2 ^ off % 2 ^ wid))] } := by
  rw [extractEffect, if_neg (Nat.not_lt.mpr h), fld_eq]

theorem extractEffect_exceeds {width off wid : Nat} (x : Nat) (h : width < off + wid) :
    extractEffect width x off wid = .raise .field := if_pos h

theorem bfx32Effect_eq (off wid : Nat) (x : Snapshot) :
    bfx32Effect off wid x = extractEffect 32 (x.arg 0 % 2 ^ 32) off wid := by
  rw [bfx32Effect, fld_eq, Nat.pow_zero, Nat.div_one]

section Extraction

variable {i : Instr} {s : State} {width x off wid : Nat}

/-- A command that extracts a field that fits completes with it. An extraction reads and writes no byte, so no access of the host
races it. -/
theorem exec_extracts (he : effectOf i s.params s.latched = extractEffect width x off wid) (h : off + wid ≤ width) :
    ∃ t, exec i s = .next t ∧ t.results[0] = BitVec.ofNat 64 (x / 2 ^ off % 2 ^ wid) ∧
      Finished s t (decide (x / 2 ^ off % 2 ^ wid ≠ 0)) ∧ SameResultsOutside (resultRegs i) s t ∧ SameMemory s t ∧
        t.walker = s.walker := by
  have hquiet : Disciplined s (effectOf i s.params s.latched) := by
    rw [he]
    exact raced_of_quiet (extractEffect_reads ..) (extractEffect_writesResults ..).stores
  obtain ⟨t, ht, hfin, hres, hout, hmem, hwalk⟩ := exec_results (he.trans (extractEffect_fits x h)) hquiet
  have hfield : t.results[0] = toWord (x / 2 ^ off % 2 ^ wid) := by simp [hres, writeResults]
  exact ⟨t, ht, hfield, hfin, hout, hmem, hwalk⟩

/-- A command that extracts a field that does not fit faults with E_FIELD. -/
theorem exec_extract_faults (he : effectOf i s.params s.latched = extractEffect width x off wid) (h : width < off + wid) :
    Claims.FaultsWith i s FaultCode.field.code :=
  faultsWith_of_verdict (by rw [he, extractEffect_exceeds x h]; rfl)

end Extraction

end Sys2Proof.Machine
end

section
/-! CERTIFICATE. The statements of bit-field extraction (41_bitfield). -/

namespace Sys2Proof.Proofs

open Sys2Proof.Machine

/-- Settles O31: BFX32 extracts from the low 32 bits of A0 as a word of width 32. -/
theorem bfx32Extracts : Obligations.Bfx32Extracts := by
  intro s off wid
  have he : effectOf (.bfx32 off wid) s.params s.latched = extractEffect 32 (s.latched.arg 0 % 2 ^ 32) off wid :=
    bfx32Effect_eq off wid s.latched
  exact ⟨exec_extracts he, exec_extract_faults he⟩

/-- Settles O32: BFX64 extracts from A0 as a word of width 64. -/
theorem bfx64Extracts : Obligations.Bfx64Extracts := by
  intro s off wid
  have he : effectOf (.bfx64 off wid) s.params s.latched = extractEffect 64 (s.latched.arg 0) off wid := rfl
  exact ⟨exec_extracts he, exec_extract_faults he⟩

end Sys2Proof.Proofs
end

section
/-! SUPPORT. The fields of a header word and what HDR makes of them (42_header R160..R162). -/

namespace Sys2Proof.Machine

theorem headerFormat_eq (h : Nat) : headerFormat h = h % 16 := by simp [headerFormat, fld_eq]

theorem headerType_eq (h : Nat) : headerType h = h / 16 % 16 := by simp [headerType, fld_eq]

theorem headerLength_eq {p : Params} {f : Nat} {pos : FieldPos} (hpos : lengthField p f = pos) (h : Nat) :
    headerLength p f h = h / 2 ^ pos.lo % 2 ^ pos.width := by
  rw [headerLength, hpos, fld_eq]

/-- The formats with a length are Header0..Header3, each with the field of its own parameters (42_header R161). -/
theorem lengthField_of_recognised {p : Params} {f : Nat} {pos : FieldPos}
    (h : f = 0 ∧ pos = p.hlen0 ∨ f = 1 ∧ pos = p.hlen1 ∨ f = 2 ∧ pos = p.hlen2 ∨ f = 3 ∧ pos = p.hlen3) :
    f ≤ 3 ∧ lengthField p f = pos := by
  rcases h with ⟨rfl, rfl⟩ | ⟨rfl, rfl⟩ | ⟨rfl, rfl⟩ | ⟨rfl, rfl⟩ <;> exact ⟨by decide, rfl⟩

/-- The N64 that HDR returns: that of the header's format where the format has a length, 0 elsewhere. -/
def hdrLength (p : Params) (f h : Nat) : Nat := if f ≤ 3 then headerLength p f h else 0

theorem hdrLength_recognised {p : Params} {f : Nat} {pos : FieldPos} (hf : f ≤ 3) (hpos : lengthField p f = pos) (h : Nat) :
    hdrLength p f h = h / 2 ^ pos.lo % 2 ^ pos.width := by
  rw [hdrLength, if_pos hf, headerLength_eq hpos]

theorem hdrLength_unrecognised {p : Params} {f : Nat} (hf : 3 < f) (h : Nat) : hdrLength p f h = 0 :=
  if_neg (Nat.not_le.mpr hf)

theorem hdrEffect_eq (p : Params) (x : Snapshot) {h f : Nat} (hh : h = x.arg 0) (hf : f = h % 16) :
    hdrEffect p x =
      { verdict := .done (decide (f ≤ 3))
        results := [(0, toWord f), (1, toWord (h / 16 % 16)), (2, toWord (hdrLength p f h)), (3, toWord (8 * hdrLength p f h))] } := by
  rw [← headerFormat_eq] at hf
  subst hh hf
  simp only [hdrEffect, hdrLength, headerType_eq, decide_eq_true_eq]

/-- HDR completes with format, type, length and bytes. It reads and writes no byte, so no access of the host races it. -/
theorem exec_hdr (s : State) {h f : Nat} (hh : h = s.latched.arg 0) (hf : f = h % 16) :
    ∃ t, exec .hdr s = .next t ∧ Finished s t (decide (f ≤ 3)) ∧ t.results[0] = toWord f ∧
      t.results[1] = toWord (h / 16 % 16) ∧ t.results[2] = toWord (hdrLength s.params f h) ∧
      t.results[3] = toWord (8 * hdrLength s.params f h) ∧
      SameResultsOutside hdrDests s t ∧ SameMemory s t ∧ t.walker = s.walker := by
  have hquiet : Disciplined s (effectOf .hdr s.params s.latched) :=
    raced_of_quiet rfl (hdrEffect_writesResults s.params s.latched).stores
  obtain ⟨t, ht, hfin, hres, hrest⟩ := exec_results (i := .hdr) (hdrEffect_eq s.params s.latched hh hf) hquiet
  refine ⟨t, ht, hfin, ?_, ?_, ?_, ?_, hrest⟩ <;> simp [hres, writeResults]

end Sys2Proof.Machine
end

section
/-! CERTIFICATE. The statement of header decoding (42_header). -/

namespace Sys2Proof.Proofs

open Sys2Proof.Machine

/-- Settles O33: HDR ends with the length it decodes, which is the format's own field or 0. -/
theorem hdrDecodes : Obligations.HdrDecodes := by
  intro s h f hh hf
  obtain ⟨t, ht, hfin, hformat, htype, hlength, hbytes, hrest⟩ := exec_hdr s hh hf
  refine ⟨t, ht, hfin, hformat, htype, fun pos hpos => ?_, fun hunknown => ?_, hrest⟩
  · obtain ⟨hknown, hfield⟩ := lengthField_of_recognised hpos
    rw [hdrLength_recognised hknown hfield] at hlength hbytes
    exact ⟨hlength, hbytes⟩
  · rw [hdrLength_unrecognised hunknown] at hlength hbytes
    exact ⟨hlength, hbytes⟩

end Sys2Proof.Proofs
end

section
/-! SUPPORT. Expansions and transposes (43_unpack, 44_transpose): a command with no effect, the fault each check of an expansion raises,
re-packing by fields, and effects that depend on a frame's packed words only. -/

namespace Sys2Proof.Machine

/-! ## Commands with nothing to do (60_exceptions R282) -/

/-- A command with no effect completes and changes nothing. It reads and writes no byte, so no access of the host races it. -/
theorem exec_nothing {i : Instr} {s : State} (he : effectOf i s.params s.latched = { verdict := .done false }) :
    ∃ t, exec i s = .next t ∧ Finished s t false ∧ SameMemory s t ∧ t.results = s.results ∧ t.walker = s.walker := by
  have hquiet : Disciplined s (effectOf i s.params s.latched) := by
    rw [he]
    exact raced_of_quiet rfl rfl
  obtain ⟨t, ht, hfin, hres, -, hmem, hwalk⟩ := exec_results he hquiet
  exact ⟨t, ht, hfin, hmem, hres, hwalk⟩

/-! ## The transposes by topology (44_transpose R191, R192) -/

/-- The kernels of the contiguous topology, each with its granularity (44_transpose R193). -/
def contigKernels : List (Instr × Nat) := [(.trc1, 1), (.trc8, 8), (.trc16, 16), (.trc32, 32), (.trcn, 1)]

/-- The kernels of the pointer-array topology, each with its granularity (44_transpose R193). -/
def pointerKernels : List (Instr × Nat) := [(.trp1, 1), (.trp8, 8), (.trp16, 16), (.trp32, 32), (.trpn, 1)]

theorem effectOf_contigKernels {ig : Instr × Nat} (h : ig ∈ contigKernels) (p : Params) (x : Snapshot) :
    effectOf ig.1 p x = contigEffect p x ig.2 (contigKernel x) := by
  simp only [contigKernels, List.mem_cons, List.not_mem_nil, or_false] at h
  rcases h with rfl | rfl | rfl | rfl | rfl
  case inr.inr.inr.inr => exact trcnEffect_eq_kernel p x
  all_goals rfl

theorem effectOf_pointerKernels {ig : Instr × Nat} (h : ig ∈ pointerKernels) (p : Params) (x : Snapshot) :
    effectOf ig.1 p x = pointerEffect p x ig.2 (pointerKernel x) := by
  simp only [pointerKernels, List.mem_cons, List.not_mem_nil, or_false] at h
  rcases h with rfl | rfl | rfl | rfl | rfl
  case inr.inr.inr.inr => exact trpnEffect_eq_kernel p x
  all_goals rfl

/-! ## The checks of an expansion, failed (43_unpack R172) -/

section ExpansionChecks
variable {p : Params} {src nin dst nout : Nat}

theorem expCheck_align (h : src % 8 ≠ 0 ∨ dst % 2 ≠ 0) : expCheck p src nin dst nout = some .align := by
  rw [expCheck, firstFail, if_pos (by simpa using h)]

variable (hs : src % 8 = 0) (hd : dst % 2 = 0)
include hs hd

theorem expCheck_source (hsrc : accessOk p src nin .read = false) : expCheck p src nin dst nout = some .bus := by
  simp [expCheck, firstFail, hs, hd, hsrc]

theorem expCheck_destination (hsrc : accessOk p src nin .read = true) (hdst : accessOk p dst nout .write = false) :
    expCheck p src nin dst nout = some .bus := by
  simp [expCheck, firstFail, hs, hd, hsrc, hdst]

theorem expCheck_overlap (hsrc : accessOk p src nin .read = true) (hdst : accessOk p dst nout .write = true)
    (hmeets : Span.meets ⟨src, nin⟩ ⟨dst, nout⟩ = true) : expCheck p src nin dst nout = some .overlap := by
  simp [expCheck, firstFail, hs, hd, hsrc, hdst, hmeets]

end ExpansionChecks

/-! ## A command that is an expansion (43_unpack R172) -/

section Expansion
variable {i : Instr} {s : State} {src nin dst nout : Nat} {l : List (Nat × Half)}
  (he : effectOf i s.params s.latched = expandEffect s.params src nin dst nout l)
include he

theorem faultsWith_of_expCheck {e : FaultCode} (h : expCheck s.params src nin dst nout = some e) :
    Claims.FaultsWith i s e.code :=
  faultsWith_of_verdict (by rw [he, expandEffect_fault h]; rfl)

/-- An expansion of a source that is not empty faults by the checks of R172 in their order. -/
theorem expansionChecks (hin : 0 < nin) (hout : 0 < nout) : Claims.ExpansionChecks i s src nin dst nout := by
  refine ⟨fun halign => ?_, fun hs hd hsrc => ?_, fun hs hd hsrc hread hdst => ?_,
    fun hs hd hsrc hread hdst hwrite hlo hhi => ?_⟩
  · exact faultsWith_of_expCheck he (expCheck_align halign)
  · exact faultsWith_of_expCheck he (expCheck_source hs hd (accessOk_false hsrc))
  · exact faultsWith_of_expCheck he (expCheck_destination hs hd (accessOk_iff.mpr ⟨hsrc, hread⟩) (accessOk_false hdst))
  · exact faultsWith_of_expCheck he (expCheck_overlap hs hd (accessOk_iff.mpr ⟨hsrc, hread⟩) (accessOk_iff.mpr ⟨hdst, hwrite⟩)
      (meets_iff.mpr ⟨hin, hout, hlo, hhi⟩))

/-- A disciplined expansion that ends with ERR = 0 has stored its elements: a failed check would have set ERR. -/
theorem stored_of_no_err {t : State} (hd : Disciplined s (effectOf i s.params s.latched)) (ht : exec i s = .next t)
    (herr : t.status.err = false) : Stored s t l := by
  cases hc : expCheck s.params src nin dst nout with
  | some e =>
    obtain ⟨u, hu, hfault, -⟩ := faultsWith_of_expCheck he hc
    cases ht.symm.trans hu
    exact absurd hfault.err (by simp [herr])
  | none =>
    obtain ⟨u, hu, hstored⟩ := exec_stores (he.trans (expandEffect_done hc)) hd
    cases ht.symm.trans hu
    exact hstored

end Expansion

/-! ## Re-packing (43_unpack R178) -/

/-- Where the elements of a stream were stored, its ADCs stand (43_unpack R173). -/
theorem Stored.memRead_stream {s t : State} {m : Memory} {S dst k : Nat} (h : Stored s t (streamElements m S dst))
    (hk : k < 64) : memRead t.mem (dst + 2 * k) 2 = adcS m S k :=
  (h.elements (_, _) (List.mem_map_of_mem (List.mem_range.mpr hk))).trans (element_toNat (adcS_lt m S k))

/-- Consecutive fields of w bits, each put back in its place, are the low bits of the value. -/
theorem sum_fields (v w n : Nat) :
    ((List.range n).map fun k => fld v (w * k) w * 2 ^ (w * k)).sum = v % 2 ^ (w * n) := by
  induction n with
  | zero => simp [Nat.mod_one]
  | succ n ih =>
    rw [List.range_succ, List.map_append, List.sum_append, ih, List.map_singleton, List.sum_singleton, fld_eq, Nat.mul_succ,
      Nat.pow_add, Nat.mod_mul, Nat.mul_comm (2 ^ (w * n))]

theorem memRead_lt_two_pow (m : Memory) (a n : Nat) : memRead m a n < 2 ^ (8 * n) := by
  rw [Nat.pow_mul]
  exact memRead_lt m a n

/-- The ADCs of a stream, each put back in its place, are its packed words (20_memory R70). -/
theorem sum_adcS (m : Memory) (S : Nat) :
    ((List.range 64).map fun k => adcS m S k * 2 ^ (12 * k)).sum = memRead m (S + 16) 96 :=
  calc ((List.range 64).map fun k => adcS m S k * 2 ^ (12 * k)).sum
      = ((List.range 64).map fun k => fld (memRead m (S + 16) 96) (12 * k) 12 * 2 ^ (12 * k)).sum :=
        congrArg List.sum (List.map_congr_left fun k hk => by rw [adcS_eq_fld m S (List.mem_range.mp hk)])
    _ = memRead m (S + 16) 96 % 2 ^ (12 * 64) := sum_fields _ 12 64
    _ = memRead m (S + 16) 96 % 2 ^ (8 * 96) := by rw [show 12 * 64 = 8 * 96 from rfl]
    _ = memRead m (S + 16) 96 := Nat.mod_eq_of_lt (memRead_lt_two_pow m (S + 16) 96)

/-! ## Header words (43_unpack R176) -/

/-- Memories that agree on words first, ..., first + n - 1 of a record agree on the bytes of these words. -/
theorem agreeOn_of_samePacked {m m' : Memory} {base first n : Nat} {packed : Nat → Prop}
    (h : Claims.SamePacked m m' base packed) (hpacked : ∀ j, first ≤ j → j < first + n → packed j) :
    AgreeOn [⟨base + 8 * first, 8 * n⟩] m m' := by
  intro r hr a hlo hhi
  obtain rfl := List.mem_singleton.mp hr
  dsimp only at hlo hhi
  have hbyte := h ((a - base) / 8) ((a - base) % 8) (hpacked _ (by omega) (by omega)) (by omega)
  rwa [show base + 8 * ((a - base) / 8) + (a - base) % 8 = a by omega] at hbyte

/-- The ADCs of a stream are those of its words 2..13. -/
theorem adcS_of_samePacked {m m' : Memory} {S k : Nat} (h : Claims.SamePacked m m' S fun j => 2 ≤ j ∧ j < 14) (hk : k < 64) :
    adcS m S k = adcS m' S k :=
  (agreeOn_of_samePacked (first := 2) (n := 12) h fun _ h1 h2 => ⟨h1, h2⟩).adcS (List.mem_singleton_self _) hk
    (by omega) (by omega)

/-- The ADCs of a frame are those of its words 4..15 and 18..29, the packed words of its two streams. -/
theorem adcF_of_samePacked {m m' : Memory} {F c : Nat} (h : Claims.SamePacked m m' F Claims.PackedWord) (hc : c < 128) :
    adcF m F c = adcF m' F c := by
  have hstream : Claims.SamePacked m m' (F + 16 + 112 * (c / 64)) fun j => 2 ≤ j ∧ j < 14 := by
    intro j b hj hb
    have hword : Claims.PackedWord (2 + 14 * (c / 64) + j) := by
      unfold Claims.PackedWord
      omega
    have hbyte := h _ b hword hb
    rwa [show F + 8 * (2 + 14 * (c / 64) + j) + b = F + 16 + 112 * (c / 64) + 8 * j + b by omega] at hbyte
  exact adcS_of_samePacked hstream (Nat.mod_lt _ (by omega))

/-- The elements of a frame array are those of its frames' packed words. -/
theorem val_of_samePacked {m m' : Memory} {B c f : Nat} (h : Claims.SamePacked m m' (B + 240 * f) Claims.PackedWord)
    (hc : c < 128) : val m B c f = val m' B c f :=
  congrArg element (adcF_of_samePacked h hc)

section SameOperands
variable {p : Params} {x y : Snapshot} (ha : x.args = y.args)
include ha

theorem arg_congr (i : Fin 8) : x.arg i = y.arg i := by rw [Snapshot.arg, Snapshot.arg, ha]

theorem exp64Effect_of_samePacked (h : Claims.SamePacked x.mem y.mem (x.arg 2) fun j => 2 ≤ j ∧ j < 14) :
    exp64Effect p x = exp64Effect p y := by
  have helems : streamElements x.mem (x.arg 2) (x.arg 0) = streamElements y.mem (x.arg 2) (x.arg 0) :=
    List.map_congr_left fun k hk => by rw [adcS_of_samePacked h (List.mem_range.mp hk)]
  rw [exp64Effect, exp64Effect, helems, arg_congr ha, arg_congr ha]

theorem exp128Effect_of_samePacked (h : Claims.SamePacked x.mem y.mem (x.arg 2) Claims.PackedWord) :
    exp128Effect p x = exp128Effect p y := by
  have helems : frameElements x.mem (x.arg 2) (x.arg 0) = frameElements y.mem (x.arg 2) (x.arg 0) :=
    List.map_congr_left fun c hc => by rw [adcF_of_samePacked h (mem_channels.mp hc)]
  rw [exp128Effect, exp128Effect, helems, arg_congr ha, arg_congr ha]

/-- The checks of a contiguous transpose read no memory. -/
theorem contigEffect_of_args (g : Nat) (l : List (Nat × Half)) : contigEffect p x g l = contigEffect p y g l := by
  simp only [contigEffect, arg_congr ha]

/-- The checks of a pointer-array transpose read memory through the pointers only. -/
theorem pointerEffect_of_pointers (g : Nat) (l : List (Nat × Half))
    (hptr : ∀ c, c < 128 → pointerAt x.mem (x.arg 0) c = pointerAt y.mem (x.arg 0) c) :
    pointerEffect p x g l = pointerEffect p y g l := by
  rw [pointerEffect, pointerCheckRows_congr hptr]
  simp only [pointerEffect, arg_congr ha]

variable (hval : ∀ c f, c < 128 → f < x.arg 3 → val x.mem (x.arg 2) c f = val y.mem (x.arg 2) c f)
include hval

theorem exp128nEffect_of_val : exp128nEffect p x = exp128nEffect p y := by
  have helems : framesElements x.mem (x.arg 2) (x.arg 0) (x.arg 3) = framesElements y.mem (x.arg 2) (x.arg 0) (x.arg 3) :=
    gridStores_congr fun c f hc hf => ⟨rfl, hval c f hc hf⟩
  rw [exp128nEffect, helems]
  simp only [exp128nEffect, arg_congr ha]

theorem contigEffect_of_val (g : Nat) : contigEffect p x g (contigKernel x) = contigEffect p y g (contigKernel y) := by
  have hkernel : contigKernel x = contigKernel y := by
    rw [contigKernel, contigKernel, ← arg_congr ha, ← arg_congr ha, ← arg_congr ha, ← arg_congr ha]
    exact gridStores_congr fun c f hc hf => ⟨rfl, hval c f hc hf⟩
  rw [hkernel, contigEffect_of_args ha]

theorem pointerEffect_of_val (g : Nat)
    (hptr : ∀ c, c < 128 → pointerAt x.mem (x.arg 0) c = pointerAt y.mem (x.arg 0) c) :
    pointerEffect p x g (pointerKernel x) = pointerEffect p y g (pointerKernel y) := by
  have hkernel : pointerKernel x = pointerKernel y := by
    rw [pointerKernel, pointerKernel, ← arg_congr ha, ← arg_congr ha, ← arg_congr ha, ← arg_congr ha]
    exact gridStores_congr fun c f hc hf => ⟨congrArg (· + 2 * (x.arg 1 + f)) (hptr c hc), hval c f hc hf⟩
  rw [hkernel, pointerEffect_of_pointers ha g _ hptr]

end SameOperands

end Sys2Proof.Machine
end

section
/-! CERTIFICATE. The statements of ADC expansion and of what the frame commands ignore (43_unpack). -/

namespace Sys2Proof.Proofs

open Sys2Proof.Machine

/-- Settles O38: the elements stored are the stream's ADCs, and these are the consecutive fields of its packed words. -/
theorem repackRoundTrip : Obligations.RepackRoundTrip := by
  rintro s t x rfl hd ht herr
  have hstored : Stored s t (streamElements s.latched.mem (s.latched.arg 2) (s.latched.arg 0)) :=
    stored_of_no_err (i := .exp64) rfl hd ht herr
  refine ⟨?_, fun k hk => ?_⟩
  · rw [← sum_adcS]
    refine congrArg List.sum (List.map_congr_left fun k hk => ?_)
    rw [hstored.memRead_stream (List.mem_range.mp hk), Nat.mod_eq_of_lt (adcS_lt _ _ _)]
  · rw [hstored.memRead_stream hk, Nat.div_eq_of_lt (adcS_lt _ _ _)]

/-- Settles O39: each of the three commands is an expansion of its own sizes. -/
theorem expansionFaultOrder : Obligations.ExpansionFaultOrder := by
  rintro s x rfl
  exact ⟨expansionChecks (i := .exp64) rfl (by omega) (by omega), expansionChecks (i := .exp128) rfl (by omega) (by omega),
    fun hN => expansionChecks (i := .exp128n) (exp128nEffect_frames hN) (by omega) (by omega)⟩

/-- Settles O40: the elements are fields of the packed words, and the checks read no memory but the pointers. -/
theorem frameHeadersAreIgnored : Obligations.FrameHeadersAreIgnored := by
  intro p x y ha
  refine ⟨exp64Effect_of_samePacked ha, exp128Effect_of_samePacked ha, fun hframes => ?_⟩
  have hval : ∀ c f, c < 128 → f < x.arg 3 → val x.mem (x.arg 2) c f = val y.mem (x.arg 2) c f :=
    fun c f hc hf => val_of_samePacked (hframes f hf) hc
  have hcontig (g : Nat) := contigEffect_of_val (p := p) ha hval g
  refine ⟨exp128nEffect_of_val ha hval, hcontig 1, hcontig 8, hcontig 16, hcontig 32, ?_, fun hptrs => ?_⟩
  · rw [trcnEffect_eq_kernel, trcnEffect_eq_kernel, hcontig]
  · have hptr (c : Nat) (hc : c < 128) : pointerAt x.mem (x.arg 0) c = pointerAt y.mem (x.arg 0) c :=
      memRead_congr fun a hlo hhi => by
        rw [← Nat.add_sub_cancel' (show x.arg 0 ≤ a by omega)]
        exact hptrs _ (by omega)
    have hpointer (g : Nat) := pointerEffect_of_val (p := p) ha hval g hptr
    refine ⟨hpointer 1, hpointer 8, hpointer 16, hpointer 32, ?_⟩
    rw [trpnEffect_eq_kernel, trpnEffect_eq_kernel, hpointer]

/-- Settles O43: with N = 0 neither EXP128N nor a kernel of either topology has an effect. -/
theorem emptyTransformsDoNothing : Obligations.EmptyTransformsDoNothing := by
  intro i hi s h0
  refine exec_nothing ?_
  rcases List.mem_cons.mp hi with rfl | hi
  · exact exp128nEffect_empty h0
  · have hi : i ∈ (contigKernels ++ pointerKernels).map Prod.fst := hi
    obtain ⟨ig, hig, rfl⟩ := List.mem_map.mp hi
    rcases List.mem_append.mp hig with hig | hig
    · rw [effectOf_contigKernels hig, contigEffect_none h0]
    · rw [effectOf_pointerKernels hig, pointerEffect_none h0]

end Sys2Proof.Proofs
end

section
/-! SUPPORT. The transposes (44_transpose): operands that pass the checks of R193 and the fault each failed check raises, grids of
elements as stored, and kernels with one effect. -/

namespace Sys2Proof.Machine

/-! ## Lists of checks (40_control R133) -/

/-- Two checks in a row with the same code are one check. -/
theorem firstFail_merge (a b : Bool) (e : FaultCode) (rest : List (Bool × FaultCode)) :
    firstFail ((a, e) :: (b, e) :: rest) = firstFail ((a || b, e) :: rest) := by
  cases a <;> rfl

/-- A check that passes leaves the fault to the checks after it. -/
theorem firstFail_pass {b : Bool} (h : b = false) (e : FaultCode) (rest : List (Bool × FaultCode)) :
    firstFail ((b, e) :: rest) = firstFail rest := by
  rw [h]; rfl

/-- A check that fails is the fault. -/
theorem firstFail_fail {b : Bool} (h : b = true) (e : FaultCode) (rest : List (Bool × FaultCode)) :
    firstFail ((b, e) :: rest) = some e := by
  rw [h]; rfl

/-- Two ranges, the one before the other, share no byte. -/
theorem meets_false_of_apart {a m b n : Nat} (h : a + m ≤ b ∨ b + n ≤ a) : Span.meets ⟨a, m⟩ ⟨b, n⟩ = false := by
  rw [Bool.eq_false_iff, Ne, meets_iff]
  dsimp only
  omega

theorem any_channels {f : Nat → Bool} : channels.any f = true ↔ ∃ c, c < 128 ∧ f c = true := by
  simp only [List.any_eq_true, mem_channels]

/-! ## The checks of the contiguous topology, passed and failed (44_transpose R193) -/

section ContigChecks
variable {p : Params} {g dst stride B N : Nat}

/-- Rows that end before the frames or begin after them pass the checks. -/
theorem contigCheck_passes (hg : N % g = 0) (hs : N ≤ stride) (hB : B % 8 = 0) (hdst : dst % 2 = 0)
    (hsrc : accessOk p B (240 * N) .read = true)
    (hrows : ∀ c, c < 128 → accessOk p (dst + 2 * (c * stride)) (2 * N) .write = true)
    (hapart : ∀ c, c < 128 → dst + 2 * (c * stride + N) ≤ B ∨ B + 240 * N ≤ dst + 2 * (c * stride)) :
    contigCheck p g dst stride B N = none := by
  refine contigCheck_none.mpr ⟨hg, hs, hB, hdst, hsrc, hrows, fun c hc => meets_false_of_apart ?_⟩
  have := hapart c hc
  omega

theorem contigCheck_gran (h : N % g ≠ 0) : contigCheck p g dst stride B N = some .gran :=
  firstFail_fail (by simpa using h) ..

variable (hg : N % g = 0)
include hg

theorem contigCheck_stride (h : stride < N) : contigCheck p g dst stride B N = some .stride := by
  simp [contigCheck, firstFail, hg, h]

variable (hs : N ≤ stride)
include hs

theorem contigCheck_align (h : B % 8 ≠ 0 ∨ dst % 2 ≠ 0) : contigCheck p g dst stride B N = some .align := by
  rw [contigCheck, firstFail_pass (by simpa using hg), firstFail_pass (by simpa using hs), firstFail_merge,
    firstFail_fail (by simpa using h)]

variable (hB : B % 8 = 0) (hdst : dst % 2 = 0)
include hB hdst

theorem contigCheck_bus (h : accessOk p B (240 * N) .read = false ∨
      ∃ c, c < 128 ∧ accessOk p (dst + 2 * (c * stride)) (2 * N) .write = false) :
    contigCheck p g dst stride B N = some .bus := by
  rw [contigCheck, firstFail_pass (by simpa using hg), firstFail_pass (by simpa using hs), firstFail_pass (by simpa using hB),
    firstFail_pass (by simpa using hdst), firstFail_merge,
    firstFail_fail (by simpa only [Bool.or_eq_true, Bool.not_eq_true', any_channels, contigRow] using h)]

theorem contigCheck_overlap (hsrc : accessOk p B (240 * N) .read = true)
    (hrows : ∀ c, c < 128 → accessOk p (dst + 2 * (c * stride)) (2 * N) .write = true)
    (h : ∃ c, c < 128 ∧ Span.meets (contigRow dst stride N c) ⟨B, 240 * N⟩ = true) :
    contigCheck p g dst stride B N = some .overlap := by
  rw [contigCheck, firstFail_pass (by simpa using hg), firstFail_pass (by simpa using hs), firstFail_pass (by simpa using hB),
    firstFail_pass (by simpa using hdst), firstFail_pass (by simpa using hsrc),
    firstFail_pass (by simpa [contigRow] using hrows), firstFail_fail (any_channels.mpr h)]

end ContigChecks

/-! ## The checks of the pointer-array topology, passed and failed (44_transpose R193) -/

section PointerCheckArray
variable {p : Params} {g Q B N : Nat}

theorem pointerCheckArray_gran (h : N % g ≠ 0) : pointerCheckArray p g Q B N = some .gran :=
  firstFail_fail (by simpa using h) ..

variable (hg : N % g = 0)
include hg

theorem pointerCheckArray_align (h : B % 8 ≠ 0 ∨ Q % 8 ≠ 0) : pointerCheckArray p g Q B N = some .align := by
  rw [pointerCheckArray, firstFail_pass (by simpa using hg), firstFail_merge, firstFail_fail (by simpa using h)]

theorem pointerCheckArray_bus (hB : B % 8 = 0) (hQ : Q % 8 = 0) (h : accessOk p Q 1024 .read = false) :
    pointerCheckArray p g Q B N = some .bus := by
  simp [pointerCheckArray, firstFail, hg, hB, hQ, h]

end PointerCheckArray

section PointerCheckRows
variable {p : Params} {m : Memory} {Q offset B N : Nat}

/-- Rows apart from the frames, the pointers and one another pass the checks. -/
theorem pointerCheckRows_passes (heven : ∀ c, c < 128 → pointerAt m Q c % 2 = 0)
    (hsrc : accessOk p B (240 * N) .read = true)
    (hrows : ∀ c, c < 128 → accessOk p (pointerAt m Q c + 2 * offset) (2 * N) .write = true)
    (hB : ∀ c, c < 128 → pointerAt m Q c + 2 * (offset + N) ≤ B ∨ B + 240 * N ≤ pointerAt m Q c + 2 * offset)
    (hQ : ∀ c, c < 128 → pointerAt m Q c + 2 * (offset + N) ≤ Q ∨ Q + 1024 ≤ pointerAt m Q c + 2 * offset)
    (hapart : ∀ c d, c < 128 → d < 128 → c ≠ d →
      pointerAt m Q c + 2 * N ≤ pointerAt m Q d ∨ pointerAt m Q d + 2 * N ≤ pointerAt m Q c) :
    pointerCheckRows p m Q offset B N = none := by
  refine pointerCheckRows_none.mpr ⟨heven, hsrc, hrows, fun c hc => meets_false_of_apart ?_,
    fun c hc => meets_false_of_apart ?_, rowsClash_false.mpr fun c hc d hd hne => meets_false_of_apart ?_⟩
  · have := hB c hc
    omega
  · have := hQ c hc
    omega
  · have := hapart c d hc hd hne
    omega

theorem rowsClash_true {row : Nat → Span} :
    rowsClash row = true ↔ ∃ c d, c < 128 ∧ d < 128 ∧ c ≠ d ∧ Span.meets (row c) (row d) = true := by
  simp only [rowsClash, any_channels, Bool.and_eq_true, decide_eq_true_eq]
  exact ⟨fun ⟨c, hc, d, hd, hne, h⟩ => ⟨c, d, hc, hd, hne.symm, h⟩,
    fun ⟨c, d, hc, hd, hne, h⟩ => ⟨c, hc, d, hd, hne.symm, h⟩⟩

theorem pointerCheckRows_align (h : ∃ c, c < 128 ∧ pointerAt m Q c % 2 ≠ 0) :
    pointerCheckRows p m Q offset B N = some .align :=
  firstFail_fail (by simpa only [any_channels, decide_eq_true_eq] using h) ..

variable (heven : ∀ c, c < 128 → pointerAt m Q c % 2 = 0)
include heven

theorem pointerCheckRows_bus (h : accessOk p B (240 * N) .read = false ∨
      ∃ c, c < 128 ∧ accessOk p (pointerAt m Q c + 2 * offset) (2 * N) .write = false) :
    pointerCheckRows p m Q offset B N = some .bus := by
  rw [pointerCheckRows, firstFail_pass (by simpa using heven), firstFail_merge,
    firstFail_fail (by simpa only [Bool.or_eq_true, Bool.not_eq_true', any_channels, pointerRow] using h)]

theorem pointerCheckRows_overlap (hsrc : accessOk p B (240 * N) .read = true)
    (hrows : ∀ c, c < 128 → accessOk p (pointerAt m Q c + 2 * offset) (2 * N) .write = true)
    (h : (∃ c, c < 128 ∧ Span.meets (pointerRow m Q offset N c) ⟨B, 240 * N⟩ = true) ∨
      (∃ c, c < 128 ∧ Span.meets (pointerRow m Q offset N c) ⟨Q, 1024⟩ = true) ∨
        rowsClash (pointerRow m Q offset N) = true) :
    pointerCheckRows p m Q offset B N = some .overlap := by
  rw [pointerCheckRows, firstFail_pass (by simpa using heven), firstFail_pass (by simpa using hsrc),
    firstFail_pass (by simpa [pointerRow] using hrows), firstFail_merge, firstFail_merge,
    firstFail_fail (by simpa only [Bool.or_eq_true, any_channels, or_assoc] using h)]

end PointerCheckRows
/-! ## The faults of a transpose in their order (44_transpose R193) -/

theorem faultsWith_of_contigCheck {ig : Instr × Nat} {s : State} {e : FaultCode} (hig : ig ∈ contigKernels)
    (h0 : s.latched.arg 3 ≠ 0)
    (h : contigCheck s.params ig.2 (s.latched.arg 0) (s.latched.arg 1) (s.latched.arg 2) (s.latched.arg 3) = some e) :
    Claims.FaultsWith ig.1 s e.code :=
  faultsWith_of_verdict (by rw [effectOf_contigKernels hig, contigEffect_fault h0 h]; rfl)

theorem faultsWith_of_pointerCheckArray {ig : Instr × Nat} {s : State} {e : FaultCode} (hig : ig ∈ pointerKernels)
    (h0 : s.latched.arg 3 ≠ 0)
    (h : pointerCheckArray s.params ig.2 (s.latched.arg 0) (s.latched.arg 2) (s.latched.arg 3) = some e) :
    Claims.FaultsWith ig.1 s e.code :=
  faultsWith_of_verdict (by rw [effectOf_pointerKernels hig, pointerEffect_array_fault h0 h]; rfl)

theorem faultsWith_of_pointerCheckRows {ig : Instr × Nat} {s : State} {e : FaultCode} (hig : ig ∈ pointerKernels)
    (h0 : s.latched.arg 3 ≠ 0)
    (h1 : pointerCheckArray s.params ig.2 (s.latched.arg 0) (s.latched.arg 2) (s.latched.arg 3) = none)
    (h2 : pointerCheckRows s.params s.latched.mem (s.latched.arg 0) (s.latched.arg 1) (s.latched.arg 2) (s.latched.arg 3) =
      some e) : Claims.FaultsWith ig.1 s e.code :=
  faultsWith_of_verdict (by rw [effectOf_pointerKernels hig, pointerEffect_rows_fault h0 h1 h2]; rfl)

/-- Row c is accessible iff the engine may write it (44_transpose R191). -/
theorem contigRowOk_iff {s : State} {dst stride N c : Nat} :
    Claims.ContigRowOk s dst stride N c ↔ accessOk s.params (dst + 2 * (c * stride)) (2 * N) .write = true := by
  rw [Claims.ContigRowOk, accessOk_iff, show dst + 2 * (c * stride) + 2 * N = dst + 2 * (c * stride + N) by omega]

/-- Row c is accessible iff the engine may write it (44_transpose R192). -/
theorem pointerRowOk_iff {s : State} {P : Nat → Nat} {offset N c : Nat} :
    Claims.PointerRowOk s P offset N c ↔ accessOk s.params (P c + 2 * offset) (2 * N) .write = true := by
  rw [Claims.PointerRowOk, accessOk_iff, show P c + 2 * offset + 2 * N = P c + 2 * (offset + N) by omega]

/-- The engine may not make an access that passes 2^64 or fails MEM_OK, nor one to a row that is not accessible. -/
theorem bus_of_inaccessible {p : Params} {B n : Nat} {ok : Nat → Prop} {base : Nat → Nat} {len : Nat}
    (hrow : ∀ c, ok c ↔ accessOk p (base c) len .write = true)
    (h : 2 ^ 64 < B + n ∨ memOk p B n .read = false ∨ ∃ c, c < 128 ∧ ¬ ok c) :
    accessOk p B n .read = false ∨ ∃ c, c < 128 ∧ accessOk p (base c) len .write = false := by
  rcases h with h | h | ⟨c, hc, h⟩
  · exact .inl (accessOk_false (.inl h))
  · exact .inl (accessOk_false (.inr h))
  · exact .inr ⟨c, hc, by rwa [hrow, Bool.not_eq_true] at h⟩

/-- A contiguous kernel faults by the checks of R193 in their order. -/
theorem contiguousChecks {ig : Instr × Nat} {s : State} (hig : ig ∈ contigKernels) (h0 : s.latched.arg 3 ≠ 0) :
    Claims.ContiguousChecks ig.1 ig.2 s (s.latched.arg 0) (s.latched.arg 1) (s.latched.arg 2) (s.latched.arg 3) := by
  refine ⟨fun hg => ?_, fun hg hs => ?_, fun hg hs halign => ?_, fun hg hs hB hdst hbus => ?_,
    fun hg hs hB hdst htop hread hrows ⟨c, hc, hlo, hhi⟩ => ?_⟩
  · exact faultsWith_of_contigCheck hig h0 (contigCheck_gran hg)
  · exact faultsWith_of_contigCheck hig h0 (contigCheck_stride hg hs)
  · exact faultsWith_of_contigCheck hig h0 (contigCheck_align hg hs halign)
  · exact faultsWith_of_contigCheck hig h0
      (contigCheck_bus hg hs hB hdst (bus_of_inaccessible (fun _ => contigRowOk_iff) hbus))
  · refine faultsWith_of_contigCheck hig h0 (contigCheck_overlap hg hs hB hdst (accessOk_iff.mpr ⟨htop, hread⟩)
      (fun c hc => contigRowOk_iff.mp (hrows c hc)) ⟨c, hc, meets_iff.mpr ?_⟩)
    dsimp only [contigRow]
    omega

/-- Rows that run into the frames, the pointers or one another fail the overlap checks. -/
theorem pointerRows_overlap {m : Memory} {Q offset B N : Nat} (hN : N ≠ 0)
    (h : (∃ c, c < 128 ∧ B < pointerAt m Q c + 2 * (offset + N) ∧ pointerAt m Q c + 2 * offset < B + 240 * N) ∨
      (∃ c, c < 128 ∧ Q < pointerAt m Q c + 2 * (offset + N) ∧ pointerAt m Q c + 2 * offset < Q + 1024) ∨
      (∃ c d, c < 128 ∧ d < 128 ∧ c ≠ d ∧ pointerAt m Q c < pointerAt m Q d + 2 * N ∧
        pointerAt m Q d < pointerAt m Q c + 2 * N)) :
    (∃ c, c < 128 ∧ Span.meets (pointerRow m Q offset N c) ⟨B, 240 * N⟩ = true) ∨
      (∃ c, c < 128 ∧ Span.meets (pointerRow m Q offset N c) ⟨Q, 1024⟩ = true) ∨
        rowsClash (pointerRow m Q offset N) = true := by
  simp only [rowsClash_true, meets_iff, pointerRow]
  refine h.imp ?_ (Or.imp ?_ ?_)
  · exact fun ⟨c, hc, hlo, hhi⟩ => ⟨c, hc, by omega⟩
  · exact fun ⟨c, hc, hlo, hhi⟩ => ⟨c, hc, by omega⟩
  · exact fun ⟨c, d, hc, hd, hne, hlo, hhi⟩ => ⟨c, d, hc, hd, hne, by omega⟩

/-- A pointer-array kernel faults by the checks of R193 in their order. -/
theorem pointerChecks {ig : Instr × Nat} {s : State} (hig : ig ∈ pointerKernels) (h0 : s.latched.arg 3 ≠ 0) :
    Claims.PointerChecks ig.1 ig.2 s (pointerAt s.latched.mem (s.latched.arg 0)) (s.latched.arg 0) (s.latched.arg 1)
      (s.latched.arg 2) (s.latched.arg 3) := by
  refine ⟨fun hg => ?_, fun hg halign => ?_, fun hg hB hQ hbus => ?_, fun hg hB hQ htop hread => ?_⟩
  · exact faultsWith_of_pointerCheckArray hig h0 (pointerCheckArray_gran hg)
  · exact faultsWith_of_pointerCheckArray hig h0 (pointerCheckArray_align hg halign)
  · exact faultsWith_of_pointerCheckArray hig h0 (pointerCheckArray_bus hg hB hQ (accessOk_false hbus))
  · have harray := pointerCheckArray_none.mpr ⟨hg, hB, hQ, accessOk_iff.mpr ⟨htop, hread⟩⟩
    refine ⟨fun hodd => ?_, fun heven => ⟨fun hbus => ?_, fun hBtop hBread hrows hover => ?_⟩⟩
    · exact faultsWith_of_pointerCheckRows hig h0 harray (pointerCheckRows_align hodd)
    · exact faultsWith_of_pointerCheckRows hig h0 harray
        (pointerCheckRows_bus heven (bus_of_inaccessible (fun _ => pointerRowOk_iff) hbus))
    · exact faultsWith_of_pointerCheckRows hig h0 harray (pointerCheckRows_overlap heven (accessOk_iff.mpr ⟨hBtop, hBread⟩)
        (fun c hc => pointerRowOk_iff.mp (hrows c hc)) (pointerRows_overlap h0 hover))

/-! ## Grids of elements, stored (44_transpose R190) -/

section StoredGrid
variable {s t : State} {addr : Nat → Nat → Nat} {m : Memory} {B N : Nat} (h : Stored s t (gridStores addr (val m B) N))
include h

theorem Stored.memRead_grid {c f : Nat} (hc : c < 128) (hf : f < N) :
    memRead t.mem (addr c f) 2 = adcF m (B + 240 * f) c :=
  (h.elements (_, _) (mem_gridStores.mpr ⟨c, f, hc, hf, rfl⟩)).trans (element_toNat (adcF_lt _ _ _))

theorem Stored.read_outside_grid {a : Nat} (ha : ∀ c f, c < 128 → f < N → a ≠ addr c f ∧ a ≠ addr c f + 1) :
    Memory.read t.mem a = Memory.read s.mem a := by
  refine h.outside a fun st hst => ?_
  obtain ⟨c, f, hc, hf, rfl⟩ := mem_gridStores.mp hst
  exact ha c f hc hf

end StoredGrid

/-! ## The transposes (44_transpose R191, R192) -/

/-- A contiguous kernel whose checks pass stores val(B, c, f) at dst + 2*(c*stride + f). -/
theorem transposesContiguous {ig : Instr × Nat} (hig : ig ∈ contigKernels) : Claims.TransposesContiguous ig.1 ig.2 := by
  rintro s x dst stride B N rfl rfl rfl rfl rfl hN hg hs hB hdst htop hread hrows hapart hdisc
  have hcheck := contigCheck_passes (p := s.params) hg hs hB hdst (accessOk_iff.mpr ⟨htop, hread⟩)
    (fun c hc => contigRowOk_iff.mp (hrows c hc)) hapart
  have he := (effectOf_contigKernels hig s.params s.latched).trans (contigEffect_done hN hcheck)
  obtain ⟨t, ht, hst⟩ := exec_stores he hdisc
  exact ⟨t, ht, hst.finished, fun c f => hst.memRead_grid, fun a => hst.read_outside_grid, hst.results, hst.walker⟩

/-- The elements of a pointer-array kernel stand where the pointers say. -/
theorem pointerKernel_eq_grid {x : Snapshot} {P : Nat → Nat} (hP : ∀ c, c < 128 → P c = pointerAt x.mem (x.arg 0) c) :
    pointerKernel x = gridStores (fun c f => P c + 2 * (x.arg 1 + f)) (val x.mem (x.arg 2)) (x.arg 3) :=
  gridStores_congr fun c f hc _ => ⟨congrArg (· + 2 * (x.arg 1 + f)) (hP c hc).symm, rfl⟩

/-- A pointer-array kernel whose checks pass stores val(B, c, f) at P[c] + 2*(offset + f). -/
theorem transposesByPointer {ig : Instr × Nat} (hig : ig ∈ pointerKernels) : Claims.TransposesByPointer ig.1 ig.2 := by
  rintro s x Q offset B N P rfl rfl rfl rfl rfl hP hN hg hB hQ hQtop hQread heven htop hread hrows hapartB hapartQ hapart hdisc
  have harray := pointerCheckArray_none.mpr ⟨hg, hB, hQ, accessOk_iff.mpr ⟨hQtop, hQread⟩⟩
  have hcheck : pointerCheckRows s.params s.latched.mem (s.latched.arg 0) (s.latched.arg 1) (s.latched.arg 2)
      (s.latched.arg 3) = none := by
    have hptr (c : Nat) (hc : c < 128) : pointerAt s.latched.mem (s.latched.arg 0) c = P c := (hP c hc).symm
    refine pointerCheckRows_passes ?_ (accessOk_iff.mpr ⟨htop, hread⟩) ?_ ?_ ?_ ?_
    · exact fun c hc => by rw [hptr c hc]; exact heven c hc
    · exact fun c hc => by rw [hptr c hc]; exact pointerRowOk_iff.mp (hrows c hc)
    · exact fun c hc => by rw [hptr c hc]; exact hapartB c hc
    · exact fun c hc => by rw [hptr c hc]; exact hapartQ c hc
    · exact fun c d hc hd hne => by rw [hptr c hc, hptr d hd]; exact hapart c d hc hd hne
  have he := (effectOf_pointerKernels hig s.params s.latched).trans (pointerEffect_done hN harray hcheck)
  obtain ⟨t, ht, hst⟩ := exec_stores he hdisc
  rw [pointerKernel_eq_grid hP] at hst
  exact ⟨t, ht, hst.finished, fun c f => hst.memRead_grid, fun a => hst.read_outside_grid, hst.results, hst.walker⟩

/-! ## Kernels with one effect (44_transpose R204) -/

/-- A granularity that divides N is no check. -/
theorem contigEffect_of_granularity {p : Params} {x : Snapshot} {g : Nat} (l : List (Nat × Half)) (h : x.arg 3 % g = 0) :
    contigEffect p x g l = contigEffect p x 1 l := by
  simp only [contigEffect, contigCheck, h, Nat.mod_one]

theorem pointerEffect_of_granularity {p : Params} {x : Snapshot} {g : Nat} (l : List (Nat × Half)) (h : x.arg 3 % g = 0) :
    pointerEffect p x g l = pointerEffect p x 1 l := by
  simp only [pointerEffect, pointerCheckArray, h, Nat.mod_one]

/-- Memory and STATUS after a command are those its effect gives. -/
theorem sameEnd_of_effectOf_eq {i j : Instr} {s : State}
    (h : effectOf i s.params s.latched = effectOf j s.params s.latched) : Claims.SameEnd i j s := by
  intro t u ht hu
  rw [exec_eq, h] at ht
  rw [exec_eq] at hu
  cases ht
  cases hu
  exact ⟨rfl, rfl⟩

theorem contigKernels_agree {ig : Instr × Nat} {s : State} (hig : ig ∈ contigKernels) (h : s.latched.arg 3 % ig.2 = 0) :
    Claims.SameEnd .trc1 ig.1 s :=
  sameEnd_of_effectOf_eq (by rw [effectOf_contigKernels hig, contigEffect_of_granularity _ h, effectOf, trc1Effect])

theorem pointerKernels_agree {ig : Instr × Nat} {s : State} (hig : ig ∈ pointerKernels) (h : s.latched.arg 3 % ig.2 = 0) :
    Claims.SameEnd .trp1 ig.1 s :=
  sameEnd_of_effectOf_eq (by rw [effectOf_pointerKernels hig, pointerEffect_of_granularity _ h, effectOf, trp1Effect])

/-! ## Transposes that end with ERR = 0 -/

/-- A disciplined command that ends with ERR = 0 ended normally, for a fault would have set ERR, and its elements are stored. -/
theorem mem_of_no_err {i : Instr} {s t : State} (hd : Disciplined s (effectOf i s.params s.latched)) (ht : exec i s = .next t)
    (herr : t.status.err = false) :
    ∃ c, (effectOf i s.params s.latched).verdict = .done c ∧
      t.mem = applyStores s.mem (effectOf i s.params s.latched).stores := by
  rw [exec_eq] at ht
  cases ht
  cases hv : (effectOf i s.params s.latched).verdict with
  | fault e =>
    have hfault := (complete_faulted (s := s) (d := resultRegs i) hv).err
    rw [herr] at hfault
    cases hfault
  | done c =>
    obtain ⟨-, -, -, hmem⟩ := complete_done (d := resultRegs i) hv hd
    exact ⟨c, rfl, hmem⟩

/-- A contiguous kernel that does not fault stores its elements; with N = 0 there are none. -/
theorem contigEffect_stores {p : Params} {x : Snapshot} {g : Nat} {c : Bool}
    (h : (contigEffect p x g (contigKernel x)).verdict = .done c) :
    (contigEffect p x g (contigKernel x)).stores = contigKernel x := by
  by_cases h0 : x.arg 3 = 0
  · rw [contigEffect_none h0, contigKernel, h0]
    rfl
  · cases hc : contigCheck p g (x.arg 0) (x.arg 1) (x.arg 2) (x.arg 3) with
    | some e =>
      rw [contigEffect_fault h0 hc] at h
      cases h
    | none => rw [contigEffect_done h0 hc]

/-- A pointer-array kernel that does not fault stores its elements; with N = 0 there are none. -/
theorem pointerEffect_stores {p : Params} {x : Snapshot} {g : Nat} {c : Bool}
    (h : (pointerEffect p x g (pointerKernel x)).verdict = .done c) :
    (pointerEffect p x g (pointerKernel x)).stores = pointerKernel x := by
  by_cases h0 : x.arg 3 = 0
  · rw [pointerEffect_none h0, pointerKernel, h0]
    rfl
  · cases h1 : pointerCheckArray p g (x.arg 0) (x.arg 2) (x.arg 3) with
    | some e =>
      rw [pointerEffect_array_fault h0 h1] at h
      cases h
    | none =>
      cases h2 : pointerCheckRows p x.mem (x.arg 0) (x.arg 1) (x.arg 2) (x.arg 3) with
      | some e =>
        rw [pointerEffect_rows_fault h0 h1 h2] at h
        cases h
      | none => rw [pointerEffect_done h0 h1 h2]

theorem mem_of_contigKernel {ig : Instr × Nat} {s t : State} (hig : ig ∈ contigKernels)
    (hd : Disciplined s (effectOf ig.1 s.params s.latched)) (ht : exec ig.1 s = .next t) (herr : t.status.err = false) :
    t.mem = applyStores s.mem (contigKernel s.latched) := by
  obtain ⟨c, hv, hmem⟩ := mem_of_no_err hd ht herr
  rw [effectOf_contigKernels hig] at hv hmem
  rw [hmem, contigEffect_stores hv]

theorem mem_of_pointerKernel {ig : Instr × Nat} {s t : State} (hig : ig ∈ pointerKernels)
    (hd : Disciplined s (effectOf ig.1 s.params s.latched)) (ht : exec ig.1 s = .next t) (herr : t.status.err = false) :
    t.mem = applyStores s.mem (pointerKernel s.latched) := by
  obtain ⟨c, hv, hmem⟩ := mem_of_no_err hd ht herr
  rw [effectOf_pointerKernels hig] at hv hmem
  rw [hmem, pointerEffect_stores hv]

/-- Pointers at the rows of the contiguous topology, offset 0, make the two kernels store the same elements (R204(d)). -/
theorem pointerKernel_eq_contigKernel {x y : Snapshot} (hmem : x.mem = y.mem) (h1 : y.arg 1 = 0) (h2 : x.arg 2 = y.arg 2)
    (h3 : x.arg 3 = y.arg 3)
    (hP : ∀ c, c < 128 → pointerAt y.mem (y.arg 0) c = x.arg 0 + 2 * (c * x.arg 1)) :
    pointerKernel y = contigKernel x := by
  rw [pointerKernel_eq_grid fun c hc => (hP c hc).symm, contigKernel, contigBody_eq_grid, hmem, h1, h2, h3]
  refine gridStores_congr fun c f _ _ => ⟨?_, rfl⟩
  rw [contigAddr]
  omega

end Sys2Proof.Machine
end

section
/-! CERTIFICATE. The statements of the transposes (44_transpose). -/

namespace Sys2Proof.Proofs

open Sys2Proof.Machine

/-- Settles O41, for each contiguous kernel: with the checks of R193 passed the effect is to store the grid of elements. -/
theorem contiguousTransposes : Obligations.ContiguousTransposes := by
  have h : ∀ ig ∈ contigKernels, Claims.TransposesContiguous ig.1 ig.2 := fun _ => transposesContiguous
  simpa [Obligations.ContiguousTransposes, contigKernels] using h

/-- Settles O42, for each pointer-array kernel, as O41. -/
theorem pointerTransposes : Obligations.PointerTransposes := by
  have h : ∀ ig ∈ pointerKernels, Claims.TransposesByPointer ig.1 ig.2 := fun _ => transposesByPointer
  simpa [Obligations.PointerTransposes, pointerKernels] using h

/-- Settles O44: the checks of R193, contiguous form, in their order. -/
theorem contiguousFaultOrder : Obligations.ContiguousFaultOrder := by
  rintro s x rfl h0 ig hig
  exact contiguousChecks hig h0

/-- Settles O45: the checks of R193, pointer-array form, in their order. -/
theorem pointerFaultOrder : Obligations.PointerFaultOrder := by
  rintro s x rfl h0 ig hig
  exact pointerChecks hig h0

/-- Settles O46: where its granularity divides N, a kernel's effect is the scalar kernel's. -/
theorem kernelsAgree : Obligations.KernelsAgree := by
  rintro s x rfl -
  exact ⟨fun _ ig hig hg _ => contigKernels_agree (List.mem_cons_of_mem _ hig) hg,
    fun _ ig hig hg _ => pointerKernels_agree (List.mem_cons_of_mem _ hig) hg⟩

/-- Settles O47: neither command faulted, so each stored its elements, and these are the same. -/
theorem pointerArrayOfRows : Obligations.PointerArrayOfRows := by
  rintro s u t v x y rfl rfl hsnap hmem - h1 h2 h3 hP ht hterr hv hverr hds hdu
  rw [mem_of_contigKernel (ig := (.trcn, 1)) (by simp [contigKernels]) hds ht hterr,
    mem_of_pointerKernel (ig := (.trpn, 1)) (by simp [pointerKernels]) hdu hv hverr, hmem,
    pointerKernel_eq_contigKernel hsnap h1 h2 h3 hP]

end Sys2Proof.Proofs
end

section
/-! SUPPORT. The PENN payload walker (45_walker): WINIT on either side of its bound, the result registers R0..R6, the payload WNEXT
returns, the offsets of the payloads of an area, and where the re-scan of WGET ends. -/

namespace Sys2Proof.Machine

/-! ## WINIT (45_walker R222) -/

theorem winitEffect_fits {x : Snapshot} (h : x.arg 0 + x.arg 1 ≤ 2 ^ 64) :
    winitEffect x =
      { verdict := .done false, walker := some ⟨.atHeader, x.args[(0 : Fin 8)], x.args[(1 : Fin 8)], 0, 0⟩ } :=
  if_neg (Nat.not_lt.mpr h)

theorem winitEffect_exceeds {x : Snapshot} (h : 2 ^ 64 < x.arg 0 + x.arg 1) : winitEffect x = .raise .bus := if_pos h

/-! ## The result registers of WNEXT and WGET (30_encoding R108) -/

/-- The registers after a command that writes R0..R6. -/
theorem resultsAre_of_writes {r : Vector Word 8} {t : State} {r0 r1 r2 r3 r4 r5 r6 : Nat}
    (h : t.results = writeResults r [(0, toWord r0), (1, toWord r1), (2, toWord r2), (3, toWord r3), (4, toWord r4),
      (5, toWord r5), (6, toWord r6)]) :
    Claims.ResultsAre t r0 r1 r2 r3 r4 r5 r6 ∧ t.results[7] = r[7] := by
  rw [writeResults_seven] at h
  unfold Claims.ResultsAre
  rw [h]
  exact ⟨⟨rfl, rfl, rfl, rfl, rfl, rfl, rfl⟩, rfl⟩

/-- Two states whose R0..R6 hold the same values agree on these registers. -/
theorem results_eq_of_resultsAre {t v : State} {r0 r1 r2 r3 r4 r5 r6 : Nat} (ht : Claims.ResultsAre t r0 r1 r2 r3 r4 r5 r6)
    (hv : Claims.ResultsAre v r0 r1 r2 r3 r4 r5 r6) (i : Fin 8) (hi : i.val ≤ 6) : v.results[i] = t.results[i] := by
  obtain ⟨t0, t1, t2, t3, t4, t5, t6⟩ := ht
  obtain ⟨v0, v1, v2, v3, v4, v5, v6⟩ := hv
  match i with
  | 0 => exact v0.trans t0.symm
  | 1 => exact v1.trans t1.symm
  | 2 => exact v2.trans t2.symm
  | 3 => exact v3.trans t3.symm
  | 4 => exact v4.trans t4.symm
  | 5 => exact v5.trans t5.symm
  | 6 => exact v6.trans t6.symm
  | 7 => exact absurd hi (by decide)

/-! ## The payload at the cursor (45_walker R223) -/

/-- Of what the look at the cursor can give, a payload alone sets COND. -/
theorem wnextParsed_cond {w : Walker} {reads : List Span} {r : Parse} (h : (wnextParsed w reads r).verdict = .done true) :
    ∃ q, r = .payload q := by
  cases r with
  | payload q => exact ⟨q, rfl⟩
  | areaEnd => cases h
  | badType t => cases h
  | truncated => cases h
  | busError => cases h

/-- A WNEXT that sets COND goes on with the walk and finds a payload at the cursor. -/
theorem wnextEffect_cond {p : Params} {x : Snapshot} (h : (wnextEffect p x).verdict = .done true) :
    (x.walker.wstate = .atHeader ∨ x.walker.wstate = .atPayload) ∧
      ∃ q, parse p x.mem x.walker.wbase.toNat x.walker.wsize.toNat x.walker.wcur.toNat = .payload q := by
  have hgoes (hw : x.walker.wstate = .atHeader ∨ x.walker.wstate = .atPayload) :
      ∃ q, parse p x.mem x.walker.wbase.toNat x.walker.wsize.toNat x.walker.wcur.toNat = .payload q := by
    rw [wnextEffect_walking hw] at h
    exact wnextParsed_cond h
  cases hw : x.walker.wstate with
  | atHeader => exact ⟨.inl rfl, hgoes (.inl hw)⟩
  | atPayload => exact ⟨.inr rfl, hgoes (.inr hw)⟩
  | none => rw [wnextEffect_unbound hw] at h; cases h
  | ended => rw [wnextEffect_ended hw] at h; cases h
  | failType => rw [wnextEffect_failType hw] at h; cases h
  | failTrunc => rw [wnextEffect_failTrunc hw] at h; cases h

/-- A command that leaves COND = 1 ended normally with COND = 1, for a fault would have cleared it (10_state R28). -/
theorem verdict_of_cond {i : Instr} {s t : State} (ht : exec i s = .next t) (hc : t.status.cond = true) :
    (effectOf i s.params s.latched).verdict = .done true := by
  rw [exec_eq] at ht
  cases ht
  cases hv : (effectOf i s.params s.latched).verdict with
  | done c => rw [← hc, (complete_finished hv).cond]
  | fault e =>
    rw [(complete_faulted hv).cond] at hc
    cases hc

/-! ## The payloads of an area (45_walker R221) -/

section PayloadOffsets
variable {p : Params} {m : Memory} {base size o k : Nat}

theorem payloadOffset_succ_of_parse {q : Payload} (h : payloadOffset p m base size k = some o)
    (hq : parse p m base size o = .payload q) : payloadOffset p m base size (k + 1) = some q.next := by
  simp [payloadOffset, h, hq]

/-- Payload k + 1 starts where payload k ends. -/
theorem parse_of_payloadOffset_succ (h : payloadOffset p m base size (k + 1) = some o) :
    ∃ o' q, payloadOffset p m base size k = some o' ∧ parse p m base size o' = .payload q ∧ q.next = o := by
  simp only [payloadOffset] at h
  split at h
  · cases h
  · next o' ho' =>
    split at h
    · next q hq => exact ⟨o', q, ho', hq, Option.some.inj h⟩
    · cases h

/-- A payload ends further on than it starts, for its header takes at least one byte (PH_SIZE ≥ 1). -/
theorem lt_next_of_parse {q : Payload} (h : parse p m base size o = .payload q) : o < q.next := by
  have hph := p.phSizeRange
  rw [next_eq_of_parse h]
  omega

/-- Each payload before payload k takes at least one byte of the area, and all of them lie in it. -/
theorem payloadOffset_bounds (h : payloadOffset p m base size k = some o) : k ≤ o ∧ o ≤ size := by
  induction k generalizing o with
  | zero =>
    cases h
    exact ⟨Nat.le_refl 0, Nat.zero_le size⟩
  | succ k ih =>
    obtain ⟨o', q, ho', hq, rfl⟩ := parse_of_payloadOffset_succ h
    exact ⟨Nat.succ_le_of_lt ((ih ho').1.trans_lt (lt_next_of_parse hq)), parse_next_le hq⟩

/-! ## The re-scan of WGET (45_walker R224) -/

/-- The re-scan passes the payloads before payload k, one unit of fuel for each, and goes on from the offset of payload k. -/
theorem seek_from_payloadOffset {j : Nat} (fuel : Nat) (h : payloadOffset p m base size k = some o) (hk : k ≤ j) :
    ∃ reads, seek p m base size j (fuel + k) 0 0 =
      ⟨(seek p m base size j fuel o k).last, (seek p m base size j fuel o k).index, reads⟩ := by
  induction k generalizing o fuel with
  | zero =>
    cases h
    exact ⟨_, rfl⟩
  | succ k ih =>
    obtain ⟨o', q, ho', hq, rfl⟩ := parse_of_payloadOffset_succ h
    obtain ⟨reads, hscan⟩ := ih (fuel + 1) ho' (Nat.le_of_succ_le hk)
    rw [seek_next hq (Nat.ne_of_lt hk)] at hscan
    exact ⟨reads, by rw [← hscan, Nat.add_right_comm, Nat.add_assoc]⟩

/-- Where the re-scan ends: at payload j, or at the first place before it that holds no payload. A fuel of WSIZE + 1 reaches it. -/
theorem seek_ends {j : Nat} (h : payloadOffset p m base size k = some o) (hk : k ≤ j)
    (hend : k = j ∨ ∀ q, parse p m base size o ≠ .payload q) :
    ∃ reads, seek p m base size j (size + 1) 0 0 = ⟨parse p m base size o, k, reads⟩ := by
  obtain ⟨hko, hos⟩ := payloadOffset_bounds h
  obtain ⟨reads, hscan⟩ := seek_from_payloadOffset (size - k + 1) h hk
  have hfuel : size + 1 = size - k + 1 + k := by omega
  have hlast : seek p m base size j (size - k + 1) o k = ⟨parse p m base size o, k, parseReads p base size o⟩ := by
    by_cases hq : ∃ q, parse p m base size o = .payload q
    · obtain ⟨q, hq⟩ := hq
      rw [seek_found hq (hend.resolve_right fun hno => hno q hq), hq]
    · exact seek_stops fun q hq' => hq ⟨q, hq'⟩
  exact ⟨reads, by rw [hfuel, hscan, hlast]⟩

end PayloadOffsets

/-- WGET returns what is found where its re-scan ends. -/
theorem wgetEffect_ends {p : Params} {x : Snapshot} {o k : Nat} (hw : x.walker.wstate ≠ .none)
    (h : payloadOffset p x.mem x.walker.wbase.toNat x.walker.wsize.toNat k = some o) (hk : k ≤ x.arg 0)
    (hend : k = x.arg 0 ∨ ∀ q, parse p x.mem x.walker.wbase.toNat x.walker.wsize.toNat o ≠ .payload q) :
    ∃ reads, wgetEffect p x = wgetFound ⟨parse p x.mem x.walker.wbase.toNat x.walker.wsize.toNat o, k, reads⟩ := by
  obtain ⟨reads, hscan⟩ := seek_ends h hk hend
  exact ⟨reads, by rw [wgetEffect_bound hw, hscan]⟩

/-- A disciplined WGET whose effect is to write R0..R6 ends with them written, R7, memory and walker as before. -/
theorem exec_wget_of_writes {s : State} {c : Bool} {r0 r1 r2 r3 r4 r5 r6 : Nat} {reads : List Span}
    (hd : Disciplined s (wgetEffect s.params s.latched))
    (he : wgetEffect s.params s.latched = { verdict := .done c, results := [(0, toWord r0), (1, toWord r1), (2, toWord r2),
      (3, toWord r3), (4, toWord r4), (5, toWord r5), (6, toWord r6)], reads := reads }) :
    ∃ t, exec .wget s = .next t ∧ Finished s t c ∧ Claims.ResultsAre t r0 r1 r2 r3 r4 r5 r6 ∧ t.results[7] = s.results[7] ∧
      t.walker = s.walker ∧ SameMemory s t := by
  obtain ⟨t, ht, hfin, hres, -, hmem, hwalk⟩ := exec_results (i := .wget) he hd
  obtain ⟨hregs, h7⟩ := resultsAre_of_writes hres
  exact ⟨t, ht, hfin, hregs, h7, hwalk, hmem⟩

end Sys2Proof.Machine
end

section
/-! CERTIFICATE. The statements of the payload walker (45_walker). -/

namespace Sys2Proof.Proofs

open Sys2Proof.Machine

/-- Settles O48, by the two sides of WINIT's bound. WINIT reads and writes no byte, so no access of the host races it. -/
theorem winitBindsArea : Obligations.WinitBindsArea := by
  rintro s x rfl
  refine ⟨fun h => ?_, fun h => faultsWith_of_verdict (c := .bus) (by rw [effectOf, winitEffect_exceeds h]; rfl)⟩
  have hexec : exec .winit s = .next (s.complete [] (winitEffect s.latched)) := exec_eq .winit s
  have hquiet : Disciplined s (winitEffect s.latched) := raced_of_quiet (winitEffect_reads _) (winitEffect_writes _).2
  rw [winitEffect_fits h] at hexec hquiet
  obtain ⟨hres, -, hwalk, hmem⟩ := complete_done (d := []) rfl hquiet
  exact ⟨_, hexec, complete_finished rfl, hwalk, fun a => by rw [hmem]; rfl, hres⟩

/-- Settles O50: the effect of WNEXT at a payload, completed. -/
theorem wnextReturnsPayload : Obligations.WnextReturnsPayload := by
  rintro s x q rfl hw hq hd
  have hexec : exec .wnext s = .next (s.complete walkDests (wnextEffect s.params s.latched)) := exec_eq .wnext s
  rw [wnextEffect_walking hw, hq] at hd hexec
  obtain ⟨hres, -, hwalk, hmem⟩ := complete_done (d := walkDests) rfl hd
  obtain ⟨hregs, h7⟩ := resultsAre_of_writes hres
  exact ⟨_, hexec, complete_finished rfl, hregs, h7, hwalk, fun a => by rw [hmem]; rfl⟩

/-- Settles O52: the re-scan ends at payload j. -/
theorem wgetReturnsPayload : Obligations.WgetReturnsPayload := by
  rintro s x o q rfl hw ho hq hd
  obtain ⟨reads, he⟩ := wgetEffect_ends hw ho (Nat.le_refl _) (.inl rfl)
  rw [hq] at he
  exact exec_wget_of_writes hd he

/-- Settles O53: the re-scan ends at the first place, at or before payload j, that holds no payload. -/
theorem wgetOtherOutcomes : Obligations.WgetOtherOutcomes := by
  rintro s x rfl
  refine ⟨fun h => faultsWith_of_verdict (c := .walkUninit) (by rw [effectOf, wgetEffect_unbound h]; rfl), ?_⟩
  intro k o r hw hk ho hr hd
  have hscan (hno : ∀ q, r ≠ .payload q) : ∃ reads, wgetEffect s.params s.latched = wgetFound ⟨r, k, reads⟩ := by
    rw [hr] at hno ⊢
    exact wgetEffect_ends hw ho hk (.inr hno)
  refine ⟨?_, ?_⟩
  · rintro code ty (⟨rfl, rfl, rfl⟩ | ⟨rfl, rfl⟩ | ⟨rfl, rfl, rfl⟩) <;>
      exact (hscan nofun).elim fun _ he => exec_wget_of_writes hd he
  · rintro rfl
    obtain ⟨reads, he⟩ := hscan nofun
    exact faultsWith_of_verdict (c := .bus) (by rw [effectOf, he]; rfl)

/-- Settles O54, from O50 and O52 at the payload both commands find. Its index and its end lie in the area, so neither WID + 1 nor the
new cursor wraps. -/
theorem wgetAgreesWithWnext : Obligations.WgetAgreesWithWnext := by
  rintro s u t v x y rfl rfl hp hm hb hz hw hid ho ht - hcond hv hds hdu
  obtain ⟨hwalking, q, hq⟩ := wnextEffect_cond (verdict_of_cond ht hcond)
  obtain ⟨t', ht', -, hregs, -, hwalker, -⟩ := wnextReturnsPayload s _ q rfl hwalking hq hds
  cases ht.symm.trans ht'
  have ho' := ho
  have hq' := hq
  rw [hp, hm, hb, hz] at hq'
  rw [hp, hm, hb, hz, ← hid] at ho'
  obtain ⟨v', hv', hfin, hregs', -⟩ := wgetReturnsPayload u _ _ q rfl hw ho' hq' hdu
  cases hv.symm.trans hv'
  rw [hid] at hregs'
  obtain ⟨hle, -⟩ := payloadOffset_bounds ho
  have hlt := lt_next_of_parse hq
  have hend := parse_next_le hq
  have hsize := s.latched.walker.wsize.isLt
  have hwid : t.walker.wid.toNat = s.latched.walker.wid.toNat + 1 := by
    rw [hwalker]
    exact BitVec.toNat_add_of_lt (show s.latched.walker.wid.toNat + 1 < 2 ^ 64 by omega)
  have hwcur : t.walker.wcur.toNat = q.next := by
    rw [hwalker]
    exact (toNat_toWord _).trans (Nat.mod_eq_of_lt (by omega))
  rw [hwid, hwcur]
  exact ⟨results_eq_of_resultsAre hregs hregs', hfin.cond, payloadOffset_succ_of_parse ho hq, hlt⟩

end Sys2Proof.Proofs
end

section
/-! SUPPORT. The scan of a stream (46_container R250, R251): its state after records passed, which record of each kind it keeps,
where the headers it reads lie, and the results of SCAN and TOCLEN that end normally. -/

namespace Sys2Proof.Machine

/-! ## The records a scan passes (R250) -/

/-- The variables after records, (type, N64) each. -/
def ScanState.passAll (q : Params) : ScanState → List (Nat × Nat) → ScanState
  | st, [] => st
  | st, (t, n) :: rest => (st.pass q t n).passAll q rest

theorem passAll_p (q : Params) (st : ScanState) (recs : List (Nat × Nat)) :
    (st.passAll q recs).p = st.p + 8 * recordWords recs := by
  induction recs generalizing st with
  | nil => rfl
  | cons r rest ih =>
    rw [ScanState.passAll, ih, recordWords, Nat.mul_add, ← Nat.add_assoc]
    rfl

theorem passAll_rem (q : Params) (st : ScanState) (recs : List (Nat × Nat)) :
    (st.passAll q recs).rem = st.rem - recordWords recs := by
  induction recs generalizing st with
  | nil => simp [ScanState.passAll, recordWords]
  | cons r rest ih =>
    rw [ScanState.passAll, ih, recordWords, Nat.cast_add, ← Int.sub_sub]
    rfl

theorem passAll_nrec (q : Params) (st : ScanState) (recs : List (Nat × Nat)) :
    (st.passAll q recs).nrec = st.nrec + recs.length := by
  induction recs generalizing st with
  | nil => rfl
  | cons r rest ih =>
    rw [ScanState.passAll, ih, List.length_cons, Nat.add_comm rest.length, ← Nat.add_assoc]
    rfl

theorem passHeader_rem (q : Params) (st : ScanState) (h : Nat) :
    (st.passHeader q h).rem = st.rem - headerLength q (headerFormat h) h := rfl

/-- A loop with a unit of fuel for each word left passes the records before it comes to what follows them, and has fuel for that:
each record takes at least a word. -/
theorem scanLoop_passes {q : Params} {m : Memory} {recs : List (Nat × Nat)} {fuel : Nat} {st : ScanState}
    (h : PassesRecords q m st.p st.rem recs) (hfuel : st.rem ≤ fuel) :
    ∃ k reads, scanLoop q m fuel st = ⟨(scanLoop q m (k + 1) (st.passAll q recs)).last, reads⟩ := by
  induction recs generalizing fuel st with
  | nil =>
    cases fuel with
    | zero => exact ⟨0, [], by rw [ScanState.passAll, scanLoop_empty hfuel, scanLoop_empty hfuel]⟩
    | succ k => exact ⟨k, _, rfl⟩
  | cons r rest ih =>
    obtain ⟨t, n⟩ := r
    obtain ⟨hrem, hok, hf, rfl, rfl, hn, hrest⟩ := h
    cases fuel with
    | zero => omega
    | succ fuel =>
      have hleft : (st.passHeader q (memRead m st.p 8)).rem ≤ fuel := by
        rw [passHeader_rem]
        omega
      obtain ⟨k, reads, hscan⟩ := ih (st := st.passHeader q (memRead m st.p 8)) hrest hleft
      exact ⟨k, ⟨st.p, 8⟩ :: reads, by rw [scanLoop_pass hrem hok hf hn, hscan, ScanState.passAll, ScanState.passHeader]⟩

/-- SCAN of an aligned or empty stream ends as its loop does after the records passed. -/
theorem scanEffect_passes {q : Params} {x : Snapshot} {recs : List (Nat × Nat)}
    (ha : 0 < x.args[(1 : Fin 8)].toInt → x.arg 0 % 8 = 0)
    (h : PassesRecords q x.mem (x.arg 0) x.args[(1 : Fin 8)].toInt recs) :
    ∃ k reads,
      scanEffect q x = scanEnded ⟨(scanLoop q x.mem (k + 1) ((scanStart x).passAll q recs)).last, reads⟩ := by
  obtain ⟨k, reads, hscan⟩ := scanLoop_passes (st := scanStart x) h (Int.self_le_toNat _)
  exact ⟨k, reads, by rw [scanEffect_runs fun ⟨hlen, hodd⟩ => hodd (ha hlen), hscan]⟩

/-! ## The record kept of each kind (SCAN_DUP) -/

/-- What a slot holds after the records of its kind at these addresses. -/
def keptSlot (policy : DupPolicy) (addrs : List Nat) : Option Nat :=
  match policy with
  | .last => addrs.getLast?
  | .first => addrs.head?

theorem reported_eq (policy : DupPolicy) (addrs : List Nat) : reported policy addrs = (keptSlot policy addrs).getD 0 := by
  cases policy <;> rfl

theorem keptSlot_isSome (policy : DupPolicy) (addrs : List Nat) :
    (keptSlot policy addrs).isSome = decide (0 < addrs.length) := by
  cases policy <;> cases addrs <;> simp [keptSlot]

theorem bit_keptSlot_isSome (policy : DupPolicy) (addrs : List Nat) :
    bit (keptSlot policy addrs).isSome = min 1 addrs.length := by
  cases addrs <;> simp [keptSlot_isSome, bit]

theorem keepSlot_keptSlot (policy : DupPolicy) (addrs : List Nat) (p : Nat) :
    keepSlot policy (keptSlot policy addrs) p = keptSlot policy (addrs ++ [p]) := by
  cases policy with
  | last => simp [keepSlot, keptSlot]
  | first => cases addrs <;> simp [keepSlot, keptSlot]

/-- A slot after one more record, which is of the slot's kind or is not. -/
theorem keptSlot_append_ite (policy : DupPolicy) (addrs : List Nat) (c : Prop) [Decidable c] (p : Nat) :
    (if decide c then keepSlot policy (keptSlot policy addrs) p else keptSlot policy addrs) =
      keptSlot policy (addrs ++ if c then [p] else []) := by
  by_cases h : c <;> simp [h, keepSlot_keptSlot]

/-- A kind occurs twice once it has, or when its slot is taken and one more record is of the kind. -/
theorem two_le_length_append_ite (policy : DupPolicy) (addrs : List Nat) (c : Prop) [Decidable c] (p : Nat) :
    2 ≤ (addrs ++ if c then [p] else []).length ↔
      2 ≤ addrs.length ∨ (decide c && (keptSlot policy addrs).isSome) = true := by
  by_cases h : c
  · simp only [h, keptSlot_isSome, if_true, List.length_append, List.length_singleton, decide_true, Bool.true_and,
      decide_eq_true_eq]
    omega
  · simp [h]

/-- The slots and the flag of a scan that has found the records of the three kinds at these addresses. -/
structure ScanState.Found (q : Params) (st : ScanState) (tocs rngs pkts : List Nat) : Prop where
  toc : st.toc = keptSlot q.scanDup tocs
  rng : st.rng = keptSlot q.scanDup rngs
  pkt : st.pkt = keptSlot q.scanDup pkts
  dup : st.dup = true ↔ 2 ≤ tocs.length ∨ 2 ≤ rngs.length ∨ 2 ≤ pkts.length

theorem scanStart_found (q : Params) (x : Snapshot) : (scanStart x).Found q [] [] [] := by
  refine ⟨?_, ?_, ?_, by simp [scanStart]⟩ <;> cases hd : q.scanDup <;> rfl

theorem ScanState.Found.pass {q : Params} {st : ScanState} {tocs rngs pkts : List Nat} (h : st.Found q tocs rngs pkts)
    (t n : Nat) :
    (st.pass q t n).Found q (tocs ++ if t = q.tToc.toNat then [st.p] else [])
      (rngs ++ if t = q.tRanges.toNat then [st.p] else []) (pkts ++ if t = q.tPacket.toNat then [st.p] else []) := by
  obtain ⟨htoc, hrng, hpkt, hdup⟩ := h
  refine ⟨?_, ?_, ?_, ?_⟩ <;> dsimp only [ScanState.pass] <;> simp only [htoc, hrng, hpkt]
  · exact keptSlot_append_ite ..
  · exact keptSlot_append_ite ..
  · exact keptSlot_append_ite ..
  · rw [Bool.or_eq_true, Bool.or_eq_true, Bool.or_eq_true, hdup, two_le_length_append_ite q.scanDup tocs,
      two_le_length_append_ite q.scanDup rngs, two_le_length_append_ite q.scanDup pkts]
    tauto

theorem ScanState.Found.passAll {q : Params} {st : ScanState} {tocs rngs pkts : List Nat} (h : st.Found q tocs rngs pkts)
    (recs : List (Nat × Nat)) :
    (st.passAll q recs).Found q (tocs ++ recordsOfType q.tToc.toNat st.p recs)
      (rngs ++ recordsOfType q.tRanges.toNat st.p recs) (pkts ++ recordsOfType q.tPacket.toNat st.p recs) := by
  induction recs generalizing st tocs rngs pkts with
  | nil => simpa [ScanState.passAll, recordsOfType] using h
  | cons r rest ih =>
    obtain ⟨t, n⟩ := r
    simp only [recordsOfType, ← List.append_assoc]
    exact ih (h.pass t n)

theorem scanned_found (q : Params) (x : Snapshot) (recs : List (Nat × Nat)) :
    ((scanStart x).passAll q recs).Found q (recordsOfType q.tToc.toNat (x.arg 0) recs)
      (recordsOfType q.tRanges.toNat (x.arg 0) recs) (recordsOfType q.tPacket.toNat (x.arg 0) recs) :=
  (scanStart_found q x).passAll recs

/-! ## The results of SCAN (30_encoding R108) -/

/-- Writes of R0..R5 in order leave R6 and R7. -/
theorem writeResults_six (r : Vector Word 8) (v0 v1 v2 v3 v4 v5 : Word) :
    writeResults r [(0, v0), (1, v1), (2, v2), (3, v3), (4, v4), (5, v5)] = #v[v0, v1, v2, v3, v4, v5, r[6], r[7]] := by
  refine Vector.ext fun i hi => ?_
  interval_cases i <;> simp [writeResults]

/-- SCANINFO, bit by bit, of a scan that has found the records of the three kinds (46_container R250). -/
theorem scanInfo_eq {q : Params} {st : ScanState} {tocs rngs pkts : List Nat} (h : st.Found q tocs rngs pkts)
    (stop : Option Nat) :
    scanInfo st stop =
      st.nrec % 2 ^ 32 + 2 ^ 32 * min 1 tocs.length + 2 ^ 33 * min 1 rngs.length + 2 ^ 34 * min 1 pkts.length +
        (if 2 ≤ tocs.length ∨ 2 ≤ rngs.length ∨ 2 ≤ pkts.length then 2 ^ 35 else 0) +
        stop.elim 0 fun f => 2 ^ 36 + 2 ^ 40 * f := by
  have hdup : 2 ^ 35 * bit st.dup = if 2 ≤ tocs.length ∨ 2 ≤ rngs.length ∨ 2 ≤ pkts.length then 2 ^ 35 else 0 := by
    rw [bit, mul_ite, Nat.mul_one, Nat.mul_zero]
    exact if_congr h.dup rfl rfl
  have hstop : 2 ^ 36 * bit stop.isSome + 2 ^ 40 * stop.getD 0 = stop.elim 0 fun f => 2 ^ 36 + 2 ^ 40 * f := by
    cases stop <;> rfl
  rw [scanInfo, h.toc, h.rng, h.pkt, bit_keptSlot_isSome, bit_keptSlot_isSome, bit_keptSlot_isSome, hdup,
    Nat.add_assoc _ _ (_ * _), hstop]

/-! ## Where the headers lie (R251) -/

/-- A header word a whole number of words after `start` and before the end of the `rem` words there. -/
def Span.InStream (start : Nat) (rem : Int) (r : Span) : Prop :=
  r.len = 8 ∧ start ≤ r.base ∧ (r.base - start) % 8 = 0 ∧ (r.base : Int) < start + 8 * rem

theorem inStream_head {start : Nat} {rem : Int} (h : 0 < rem) : Span.InStream start rem ⟨start, 8⟩ :=
  ⟨rfl, Nat.le_refl _, by simp, by dsimp only; omega⟩

/-- What lies in the stream after a record lies in the stream. -/
theorem Span.InStream.of_rest {start n : Nat} {rem : Int} {r : Span} (h : r.InStream (start + 8 * n) (rem - n)) :
    r.InStream start rem := by
  obtain ⟨hlen, hlo, hmod, hhi⟩ := h
  exact ⟨hlen, by omega, by omega, by omega⟩

theorem scanLoop_reads_inStream (q : Params) (m : Memory) (fuel : Nat) (st : ScanState) :
    ∀ r ∈ (scanLoop q m fuel st).reads, r.InStream st.p st.rem := by
  induction fuel generalizing st with
  | zero => simp [scanLoop]
  | succ fuel ih =>
    by_cases hrem : st.rem ≤ 0
    · simp [scanLoop_empty hrem]
    have hrem : 0 < st.rem := Int.not_le.mp hrem
    cases hok : accessOk q st.p 8 .read with
    | false => simp [scanLoop_bus hrem hok]
    | true =>
      by_cases hf : 2 < headerFormat (memRead m st.p 8)
      · simpa [scanLoop_stop hrem hok hf] using inStream_head hrem
      have hf := Nat.not_lt.mp hf
      by_cases hn : headerLength q (headerFormat (memRead m st.p 8)) (memRead m st.p 8) = 0
      · simpa [scanLoop_zero hrem hok hf hn] using inStream_head hrem
      · rw [scanLoop_pass hrem hok hf hn]
        exact List.forall_mem_cons.mpr ⟨inStream_head hrem, fun r hr => (ih _ r hr).of_rest⟩

/-! ## TOCDSC and TOCLEN that end with ERR = 0 (R253, R254) -/

theorem tocdscEffect_of_done {p : Params} {x : Snapshot} {c : Bool} (h : (tocdscEffect p x).verdict = .done c) :
    tocdscCheck p x = none := by
  cases hc : tocdscCheck p x with
  | none => rfl
  | some e => rw [tocdscEffect_fault hc] at h; cases h

/-- A TOCLEN that ends normally has passed its checks, and its offsets do not decrease. -/
theorem toclenEffect_of_done {p : Params} {x : Snapshot} {a d0 d1 : Nat} {c : Bool} (h : (toclenEffect p x).verdict = .done c)
    (ha : descAddr (x.arg 0) (x.arg 1) = a) (h0 : memRead x.mem a 4 = d0) (h1 : memRead x.mem (a + 4) 4 = d1) :
    toclenCheck p x = none ∧ descOffset d0 ≤ descOffset d1 := by
  cases hc : toclenCheck p x with
  | some e => rw [toclenEffect_fault hc] at h; cases h
  | none =>
    refine ⟨rfl, Nat.not_lt.mp fun hlt => ?_⟩
    rw [toclenEffect_order hc ha h0 h1 hlt] at h
    cases h

/-- The offset and the WibFrame flag a disciplined TOCDSC that ends with ERR = 0 returns. -/
theorem results_of_tocdsc {s t : State} {d : Nat} (hd : Disciplined s (tocdscEffect s.params s.latched))
    (ht : exec .tocdsc s = .next t) (herr : t.status.err = false)
    (h : memRead s.latched.mem (descAddr (s.latched.arg 0) (s.latched.arg 1)) 4 = d) :
    t.results[2] = toWord (descOffset d) ∧ t.results[3] = toWord (bit (decide (descType d = 1))) := by
  obtain ⟨c, hv, -⟩ := mem_of_no_err (i := .tocdsc) hd ht herr
  obtain ⟨t', ht', -, hres, -⟩ := exec_results (i := .tocdsc) (tocdscEffect_done (tocdscEffect_of_done hv) rfl h) hd
  cases ht.symm.trans ht'
  rw [hres, tocdscResults, writeResults_five]
  exact ⟨rfl, rfl⟩

/-- The length and the frame count a disciplined TOCLEN that ends with ERR = 0 returns. -/
theorem results_of_toclen {s t : State} {a d0 d1 : Nat} (hd : Disciplined s (toclenEffect s.params s.latched))
    (ht : exec .toclen s = .next t) (herr : t.status.err = false) (ha : descAddr (s.latched.arg 0) (s.latched.arg 1) = a)
    (h0 : memRead s.latched.mem a 4 = d0) (h1 : memRead s.latched.mem (a + 4) 4 = d1) :
    ∃ len, descOffset d1 = descOffset d0 + len ∧ t.results[0] = toWord len ∧
      t.results[1] = toWord (if descType d0 = 1 then len / 30 else 0) := by
  obtain ⟨c, hv, -⟩ := mem_of_no_err (i := .toclen) hd ht herr
  obtain ⟨hc, hle⟩ := toclenEffect_of_done hv ha h0 h1
  obtain ⟨len, hlen⟩ := Nat.exists_eq_add_of_le hle
  obtain ⟨t', ht', -, hres, -⟩ := exec_results (i := .toclen) (toclenEffect_done hc ha h0 h1 hlen) hd
  cases ht.symm.trans ht'
  rw [hres, toclenResults, writeResults_five]
  exact ⟨len, hlen, rfl, rfl⟩

end Sys2Proof.Machine
end

section
/-! CERTIFICATE. The statements of the stream scan and of the law between the Toc commands (46_container). -/

namespace Sys2Proof.Proofs

open Sys2Proof.Machine

/-- Settles O55: the loop passes the records and then ends, without length or at the unrecognised header; what it found is folded
over the records. -/
theorem scanFindsRecords : Obligations.ScanFindsRecords := by
  rintro s x recs L here left stop rfl rfl ha hpass hhere rfl hend hd
  obtain ⟨k, reads, he⟩ := scanEffect_passes ha hpass
  have hfound := scanned_found s.params s.latched recs
  have hp : _ = s.latched.arg 0 + _ := passAll_p s.params (scanStart s.latched) recs
  have hrem : _ = s.latched.args[(1 : Fin 8)].toInt - _ := passAll_rem s.params (scanStart s.latched) recs
  have hnrec : _ = recs.length := (passAll_nrec s.params (scanStart s.latched) recs).trans (Nat.zero_add _)
  generalize (scanStart s.latched).passAll s.params recs = st at he hfound hp hrem hnrec
  obtain rfl : here = (st.p : Int) := by rw [hhere, hp, Nat.cast_add, Nat.cast_mul, Nat.cast_ofNat]
  have hlast : (scanLoop s.params s.latched.mem (k + 1) st).last = .finished st stop := by
    rw [Int.toNat_natCast, ← headerFormat_eq, ← hrem] at hend
    rcases hend with ⟨hempty, rfl⟩ | ⟨hmore, hok, hf, rfl⟩
    · rw [scanLoop_empty hempty]
    · rw [scanLoop_stop hmore hok hf]
  rw [hlast] at he
  obtain ⟨t, ht, hfin, hres, hframe⟩ := exec_results (i := .scan) he hd
  rw [scanResults, writeResults_six, scanInfo_eq hfound, hfound.toc, hfound.rng, hfound.pkt, hnrec, hrem] at hres
  refine ⟨t, ht, hfin, ?_, ?_, ?_, hframe⟩
  · rintro tocs rngs pkts rfl rfl rfl
    rw [reported_eq, reported_eq, reported_eq, hres]
    exact ⟨rfl, rfl, rfl, by cases stop <;> rfl⟩
  · rw [hres]
    exact (BitVec.ofInt_natCast 64 st.p).symm
  · rw [hres]
    rfl

/-- Settles O56: the checks in their order, with the loop at the header after the records passed. -/
theorem scanFaults : Obligations.ScanFaults := by
  rintro s x L rfl rfl hL
  refine ⟨fun hodd => faultsWith_of_verdict (c := .align) (by rw [effectOf, scanEffect_misaligned ⟨hL, hodd⟩]; rfl), ?_⟩
  rintro recs here ha hpass hwords rfl
  obtain ⟨k, reads, he⟩ := scanEffect_passes (fun _ => ha) hpass
  have hp : ((scanStart s.latched).passAll s.params recs).p = s.latched.arg 0 + 8 * recordWords recs := passAll_p ..
  have hleft : 0 < ((scanStart s.latched).passAll s.params recs).rem := by
    rw [passAll_rem]
    exact Int.sub_pos_of_lt hwords
  rw [← hp, ← headerFormat_eq]
  refine ⟨fun hbus => ?_, fun hok hf hn => ?_⟩
  · exact faultsWith_of_verdict (c := .bus) (by rw [effectOf, he, scanLoop_bus hleft hbus]; rfl)
  · exact faultsWith_of_verdict (c := .zeroLen) (by rw [effectOf, he, scanLoop_zero hleft hok hf hn]; rfl)

/-- Settles O57, by the loop's reads; a misaligned base is not read. -/
theorem scanReadsInsideStream : Obligations.ScanReadsInsideStream := by
  intro q x
  by_cases h : 0 < (scanStart x).rem ∧ (scanStart x).p % 8 ≠ 0
  · simp [scanEffect_misaligned h, Effect.raise]
  · rw [scanEffect_runs h, scanEnded_reads]
    exact scanLoop_reads_inStream q x.mem _ (scanStart x)

/-- Settles O60: both TOCDSC read what TOCLEN read, and an offset has 24 bits, so neither the difference nor the length wraps. -/
theorem tocLengthLaw : Obligations.TocLengthLaw := by
  rintro s u v t t0 t1 x y z rfl rfl rfl hmu hmv hDu hDv hiu hiv hds hdu hdv ht hterr hu huerr hv hverr
  obtain ⟨a, ha⟩ : ∃ a, descAddr (s.latched.arg 0) (s.latched.arg 1) = a := ⟨_, rfl⟩
  obtain ⟨d0, h0⟩ : ∃ d0, memRead s.latched.mem a 4 = d0 := ⟨_, rfl⟩
  obtain ⟨d1, h1⟩ : ∃ d1, memRead s.latched.mem (a + 4) 4 = d1 := ⟨_, rfl⟩
  have ha' : descAddr (s.latched.arg 0) (s.latched.arg 1 + 1) = a + 4 := by rw [← ha]; rfl
  obtain ⟨len, hlen, hr0, hr1⟩ := results_of_toclen hds ht hterr ha h0 h1
  obtain ⟨hoff0, hwib⟩ := results_of_tocdsc hdu hu huerr (by rw [← hmu, ← hDu, hiu, ha, h0])
  obtain ⟨hoff1, -⟩ := results_of_tocdsc hdv hv hverr (by rw [← hmv, ← hDv, hiv, ha', h1])
  refine ⟨?_, fun hone => ?_⟩
  · rw [hr0, hoff0, hoff1, hlen, toWord, toWord, toWord, BitVec.ofNat_add, add_sub_cancel_left]
  · have htype : descType d0 = 1 := by
      by_contra hne
      rw [hwib, toWord_bit, decide_eq_false hne] at hone
      exact absurd hone (by decide)
    have hlt : descOffset d1 < 2 ^ 24 := fld_lt ..
    rw [hr0, hr1, if_pos htype, toNat_toWord, toNat_toWord]
    omega

end Sys2Proof.Proofs
end

section
/-! SUPPORT. What RESET leaves: the registers at the values of 70_reset R310, and memory outside an abandoned write set (R311). -/

namespace Sys2Proof.Machine

/-! ## The registers after reset (70_reset R310) -/

theorem statusReset_word : statusReset.word = 0 := by decide

theorem resetNow_getArg (s : State) (w : List Nat) (i : Fin 8) : (s.resetNow w).args[i] = 0 := by
  simp

theorem resetNow_getResult (s : State) (w : List Nat) (i : Fin 8) : (s.resetNow w).results[i] = 0 := by
  simp

/-! ## The bytes after reset (70_reset R311) -/

/-- RESET changes no byte outside the write set it abandons. -/
theorem read_resetNow_out {s : State} {w : List Nat} {a : Nat} (h : a ∉ w) :
    Memory.read (s.resetNow w).mem a = Memory.read s.mem a :=
  read_scramble_out _ _ _ _ h

/-! ## The invariants of the state after reset, whatever its open parameters (log 1) -/

section ResetWith
variable (p : Params)

theorem lifecycleInv_resetWith : (State.resetWith p).LifecycleInv := .of_idle rfl rfl

theorem statusInv_resetWith : (State.resetWith p).StatusInv := by
  simp [State.StatusInv, State.resetWith, statusReset]

theorem walkerInv_resetWith : (State.resetWith p).WalkerInv := walkerInv_iff.mpr walkerReset_coherent

theorem memoryInv_resetWith : (State.resetWith p).MemoryInv := .of_idle rfl rfl

end ResetWith

end Sys2Proof.Machine
end

section
/-! CERTIFICATE. The statements of reset (70_reset R310..R312). -/

namespace Sys2Proof.Proofs

open Sys2Proof.Machine

/-- Settles O21: the step takes the RESET of the host's turn, which abandons the write set of the command still in flight. -/
theorem resetAtAnyTime : Obligations.ResetAtAnyTime := by
  intro s rest ht hi
  have hmem : ∀ a, a ∉ s.inFlightBytes →
      Memory.read ((s.heard rest).resetNow (s.heard rest).inFlightBytes).mem a = Memory.read s.mem a := by
    intro a ha
    rw [read_resetNow_out (by rwa [heard_inFlightBytes]), heard_mem]
  exact ⟨_, step_event ht hi, fun i => ⟨resetNow_getArg _ _ i, resetNow_getResult _ _ i⟩, rfl, statusReset_word,
    rfl, rfl, rfl, rfl, rfl, rfl, rfl, rfl, rfl, hmem⟩

/-- Settles O20: the block is idle, its walker unbound and its memory empty, for any open parameters. -/
theorem resetMeetsInvariants : Obligations.ResetMeetsInvariants :=
  ⟨lifecycleInv_resetWith _, statusInv_resetWith _, walkerInv_resetWith _, memoryInv_resetWith _⟩

end Sys2Proof.Proofs
end
